-- ==== Sys2Proof/Word.lean ====
section
/-! DEFINITION. The number domains of the spec (00_scope.md R16): bytes, times, divisors, attenuation
levels, frequencies. -/

namespace Sys2Proof

/-- `Byte`: one bus byte, bit 0 least significant (R15, R16). -/
abbrev Byte := BitVec 8

/-- `Time`: an unsigned integer of `TIME_W` = 32 bits counting time units (R16, D4). -/
abbrev Time := BitVec 32

/-- The type of `elapsedTime`: `TIME_W + 2` = 34 bits (10_state.md R25, D25). -/
abbrev Elapsed := BitVec 34

/-- `Div`: a 10-bit frequency divisor (R16). -/
abbrev Div := BitVec 10

/-- `Att`: a 4-bit attenuation level, 0 loudest, 15 silent (R16, R74). -/
abbrev Att := BitVec 4

/-- `Freq`: an exact signed rational number of hertz (R16, D5). -/
abbrev Freq := Rat

/-- The two-bit oscillator field of a command or a bus byte (30_encoding.md R72, R80). -/
abbrev Osc := BitVec 2

/-- The index of a voice slot, 0 to 2 (10_state.md R20). -/
abbrev Slot := Fin 3

end Sys2Proof
end

