-- ==== Sys2Proof/Config.lean ====
section
/-! DEFINITION. What an implementation fixes (00_scope.md R9, 10_state.md R32) and the free values. -/

namespace Sys2Proof.Config

/-- The configuration constants the step reads: read-only control registers, fixed before reset is
released and written by no operation (R32). -/
structure Params where
  /-- `MASTER_CLOCK_HZ`, a positive integer, OPEN (R8, R9). -/
  masterClockHz : ℕ+
  /-- `WRITE_CYCLES`, the chip-cycle count of the write pulse, a positive integer, OPEN (R9, R127). -/
  writeCycles : ℕ+
  /-- `EARLY_STOP`: the tick loop stops at the first idle voice (true) or skips it (false), OPEN
  (R9, R194). -/
  earlyStop : Bool
deriving DecidableEq, Repr

/-- The master clock of the machine that `State.reset` describes: no value is known (log 4). -/
opaque masterClockHz : ℕ+

/-- The pulse's cycle count of the machine that `State.reset` describes: no value is known (log 4). -/
opaque writeCycles : ℕ+

/-- The early-stop parameter of the machine that `State.reset` describes: no value is known (log 4). -/
opaque earlyStop : Bool

/-- What a floor division by zero gives, as a function of the dividend. R16 defines `div` for a
positive divisor only; a division by zero arises in no reachable state (R211; log 6). -/
opaque divByZero : Nat → Nat

end Sys2Proof.Config
end

