-- ==== Sys2Proof/Syntax.lean ====
section
/-! DEFINITION. The instructions: one constructor for each row of spec/opcode_table.json, and the raw
forms in which they arrive (30_encoding.md). -/

namespace Sys2Proof

/-- `config.envelope` (10_state.md R21). -/
structure EnvelopeConfig where
  attack  : Time
  decay   : Time
  sustain : Att
  release : Time
deriving DecidableEq, Repr

/-- `config.vibrato` (10_state.md R22). -/
structure VibratoConfig where
  delay     : Time
  amplitude : Freq
  rise      : Time
  period    : Time
deriving DecidableEq, Repr

/-- `config.tremolo` (10_state.md R23). -/
structure TremoloConfig where
  period  : Time
  bitMask : Div
deriving DecidableEq, Repr

/-- A whole VoiceConfig: ten fields (10_state.md R21 to R23). -/
structure VoiceConfig where
  envelope : EnvelopeConfig
  vibrato  : VibratoConfig
  tremolo  : TremoloConfig
deriving DecidableEq, Repr

/-- The config with all ten fields zero (10_state.md R36). -/
def VoiceConfig.zero : VoiceConfig :=
  { envelope := { attack := 0, decay := 0, sustain := 0, release := 0 }
    vibrato  := { delay := 0, amplitude := 0, rise := 0, period := 0 }
    tremolo  := { period := 0, bitMask := 0 } }

/-- The instructions. The operands of BEGIN and TICK that are sampled from input pins (`cmd_cfg_ok`,
`now`) are operands here (30_encoding.md R82, R87). -/
inductive Instr where
  /-- BEGIN, with the sampled `cmd_cfg_ok` and `now` (R197). -/
  | beginOp (cfgOk : Bool) (now : Time)
  /-- END (R198). -/
  | endOp
  /-- SET_TONE (R121). -/
  | setTone (osc : Osc) (freq : Freq)
  /-- SET_TONE_ATT (R122). -/
  | setToneAtt (osc : Osc) (level : Att)
  /-- MUTE_TONE (R123). -/
  | muteTone (osc : Osc)
  /-- SET_NOISE (R124); type 0 is periodic, 1 is white. -/
  | setNoise (ntype : BitVec 1) (shift : BitVec 2)
  /-- SET_NOISE_ATT (R125). -/
  | setNoiseAtt (level : Att)
  /-- MUTE_NOISE (R126). -/
  | muteNoise
  /-- PLAY_NOTE (R140); index 0 to 2 is explicit, 3 is automatic. -/
  | playNote (freq : Freq) (duration : Time) (cfg : VoiceConfig) (index : Osc)
  /-- RESERVED_9 (R83 (a)). -/
  | reserved9
  /-- RESERVED_10 (R83 (a)). -/
  | reserved10
  /-- RESERVED_11 (R83 (a)). -/
  | reserved11
  /-- RESERVED_12 (R83 (a)). -/
  | reserved12
  /-- RESERVED_13 (R83 (a)). -/
  | reserved13
  /-- RESERVED_14 (R83 (a)). -/
  | reserved14
  /-- RESERVED_15 (R83 (a)). -/
  | reserved15
  /-- TICK, with the sampled `now` (R190). -/
  | tick (now : Time)
  /-- TONE_DIV_LO, the latch byte of a divisor write (R77, R120). -/
  | toneDivLo (osc : Osc) (lo : BitVec 4)
  /-- TONE_DIV_HI, the data byte of a divisor write (R77, R120). -/
  | toneDivHi (hi : BitVec 6)
  /-- TONE_ATT (R77, R122). -/
  | toneAtt (osc : Osc) (level : Att)
  /-- NOISE_CTL (R77, R124). -/
  | noiseCtl (shift : BitVec 2) (ntype : BitVec 1)
  /-- NOISE_ATT (R77, R125). -/
  | noiseAtt (level : Att)
  /-- writeToneRegister (R111). -/
  | writeToneRegister (osc : Osc)
  /-- writeNoiseRegister (R112). -/
  | writeNoiseRegister
  /-- writeFrequencyLow, of the divisor's bits 3..0 (R113). -/
  | writeFrequencyLow (lo : BitVec 4)
  /-- writeFrequencyHigh, of the divisor's bits 9..4 (R114). -/
  | writeFrequencyHigh (hi : BitVec 6)
  /-- writeAttenuation (R115). -/
  | writeAttenuation (level : Att)
  /-- writeNoiseControl (R118). -/
  | writeNoiseControl (ntype : BitVec 1) (shift : BitVec 2)
  /-- latch (R116). -/
  | latch
deriving DecidableEq, Repr

/-- The record on the command port, `CMD` (30_encoding.md R80). Each operation reads the fields R82
lists and ignores the others. -/
structure CmdRecord where
  op       : BitVec 4
  osc      : Osc
  level    : Att
  ntype    : BitVec 1
  shift    : BitVec 2
  freq     : Freq
  duration : Time
  cfg      : VoiceConfig
deriving DecidableEq, Repr

/-- A command record with the given op code and every operand field zero. -/
def CmdRecord.ofOp (op : BitVec 4) : CmdRecord :=
  { op := op, osc := 0, level := 0, ntype := 0, shift := 0, freq := 0, duration := 0
    cfg := VoiceConfig.zero }

/-- Which step of the Register Write Protocol a pin word belongs to: the words of the seven steps
overlap, so a word alone does not tell (opcode_table.json, format PINSTEP; log 11). -/
inductive PinStepKind where
  | toneRegister | noiseRegister | frequencyLow | frequencyHigh | attenuation | noiseControl | latch
deriving DecidableEq, Repr

/-- An instruction as it arrives, before decoding: a command record with the two input pins sampled
beside it, a tick with its timestamp, a bus byte, or a pin step's word. -/
inductive RawWord where
  | cmd (r : CmdRecord) (cfgOk : Bool) (now : Time)
  | tick (now : Time)
  | bus (b : Byte)
  | pin (k : PinStepKind) (b : Byte)
deriving DecidableEq, Repr

end Sys2Proof
end

