-- ==== Sys2Proof/WellFormed.lean ====
section
/-! DEFINITION. Which terms of `Instr` stand for an instruction of the spec. -/

namespace Sys2Proof

/-- The oscillator field names one of the three oscillators (30_encoding.md R77: "`oo` is the
oscillator index, never `11` in a tone word"). -/
def Osc.valid (o : Osc) : Bool := o != 3

/-- A tone word of the bus and the step that drives its high nibble name an oscillator 0 to 2 (R77,
R111). A command may carry the field value 3: it has a meaning there (R83 (b), R141). -/
def Instr.wellFormed : Instr → Bool
  | .toneDivLo osc _ => osc.valid
  | .toneAtt osc _ => osc.valid
  | .writeToneRegister osc => osc.valid
  | .beginOp _ _ | .endOp | .setTone _ _ | .setToneAtt _ _ | .muteTone _ | .setNoise _ _
  | .setNoiseAtt _ | .muteNoise | .playNote _ _ _ _ | .reserved9 | .reserved10 | .reserved11
  | .reserved12 | .reserved13 | .reserved14 | .reserved15 | .tick _ | .toneDivHi _ | .noiseCtl _ _
  | .noiseAtt _ | .writeNoiseRegister | .writeFrequencyLow _ | .writeFrequencyHigh _
  | .writeAttenuation _ | .writeNoiseControl _ _ | .latch => true

end Sys2Proof
end

