-- ==== Sys2Proof/Decode.lean ====
section
/-! DEFINITION. The decoder, total on every raw word and rejecting by name, and the encoder, both
written from 30_encoding.md R70 to R87. -/

namespace Sys2Proof

/-- Why a raw word is no instruction. No command and no tick is ever rejected. -/
inductive DecodeError where
  /-- A data byte with bit 6 set, `0 1 xxxxxx`: never emitted, no meaning assigned (R78). -/
  | dataByteBit6
  /-- A noise control byte with payload bit 3 set, `1 110 1 xxx`: never emitted (R78). -/
  | noiseControlBit3
  /-- A pin step's word whose driven pins do not carry the step's fixed bits (R111 to R115). -/
  | pinPattern
  /-- A tone register step with oscillator field 3 (R111: osc in 0..2). -/
  | pinOscillator
deriving DecidableEq, Repr

/-! ## Commands (R80 to R83) -/

/-- The instruction of a command record; `cfgOk` and `now` are the input pins sampled with it
(R81, R82). -/
def decodeCmd (r : CmdRecord) (cfgOk : Bool) (now : Time) : Instr :=
  match r.op.toNat with
  | 0 => .beginOp cfgOk now
  | 1 => .endOp
  | 2 => .setTone r.osc r.freq
  | 3 => .setToneAtt r.osc r.level
  | 4 => .muteTone r.osc
  | 5 => .setNoise r.ntype r.shift
  | 6 => .setNoiseAtt r.level
  | 7 => .muteNoise
  | 8 => .playNote r.freq r.duration r.cfg r.osc
  | 9 => .reserved9
  | 10 => .reserved10
  | 11 => .reserved11
  | 12 => .reserved12
  | 13 => .reserved13
  | 14 => .reserved14
  | _ => .reserved15

/-! ## Bus bytes (R70 to R78) -/

/-- Bits `lo` to `lo + w - 1` of a byte (R15's slice). -/
def field (b : Byte) (lo w : Nat) : BitVec w := b.extractLsb' lo w

/-- The bus word of a byte, by its marker bit 7, its register id in bits 6..4 and the bits no
instruction uses (R70 to R78). -/
def decodeBus (b : Byte) : Except DecodeError Instr :=
  if field b 7 1 = 0 then
    if field b 6 1 = 0 then .ok (.toneDivHi (field b 0 6)) else .error .dataByteBit6
  else if field b 5 2 = 3 then
    if field b 4 1 = 1 then .ok (.noiseAtt (field b 0 4))
    else if field b 3 1 = 0 then .ok (.noiseCtl (field b 1 2) (field b 0 1))
    else .error .noiseControlBit3
  else if field b 4 1 = 1 then .ok (.toneAtt (field b 5 2) (field b 0 4))
  else .ok (.toneDivLo (field b 5 2) (field b 0 4))

/-! ## Pin steps (R111 to R118) -/

/-- The pin step of a kind whose driven pins are read from the word; pins the step does not drive
are ignored (R111 to R118). -/
def decodePin (k : PinStepKind) (b : Byte) : Except DecodeError Instr :=
  match k with
  | .toneRegister =>
    if field b 7 1 = 1 ∧ field b 4 1 = 0 then
      if field b 5 2 = 3 then .error .pinOscillator else .ok (.writeToneRegister (field b 5 2))
    else .error .pinPattern
  | .noiseRegister => if field b 4 4 = 0b1110 then .ok .writeNoiseRegister else .error .pinPattern
  | .frequencyLow =>
    if field b 7 1 = 1 then .ok (.writeFrequencyLow (field b 0 4)) else .error .pinPattern
  | .frequencyHigh =>
    if field b 7 1 = 0 then .ok (.writeFrequencyHigh (field b 0 6)) else .error .pinPattern
  | .attenuation =>
    if field b 4 1 = 1 then .ok (.writeAttenuation (field b 0 4)) else .error .pinPattern
  | .noiseControl => .ok (.writeNoiseControl (field b 0 1) (field b 1 2))
  | .latch => .ok .latch

/-- The decoder: total on every raw word. -/
def decode : RawWord → Except DecodeError Instr
  | .cmd r cfgOk now => .ok (decodeCmd r cfgOk now)
  | .tick now => .ok (.tick now)
  | .bus b => decodeBus b
  | .pin k b => decodePin k b

/-! ## The encoder -/

/-- The command record of a command and the input pins sampled with it; fields the operation does
not read are zero (R81, R82). -/
def encodeOp (op : BitVec 4) : RawWord := .cmd (CmdRecord.ofOp op) false 0

/-- `TONE_DIV_LO`, `1 oo 0 nnnn` (R77). -/
def toneDivLoByte (osc : Osc) (lo : BitVec 4) : Byte := (1#1 ++ osc ++ 0#1 ++ lo).cast (by decide)

/-- `TONE_DIV_HI`, `0 0 hhhhhh` (R77). -/
def toneDivHiByte (hi : BitVec 6) : Byte := (0#2 ++ hi).cast (by decide)

/-- `TONE_ATT`, `1 oo 1 aaaa` (R77). -/
def toneAttByte (osc : Osc) (level : Att) : Byte := (1#1 ++ osc ++ 1#1 ++ level).cast (by decide)

/-- `NOISE_CTL`, `1 11 0 0 ss t` (R77). -/
def noiseCtlByte (shift : BitVec 2) (ntype : BitVec 1) : Byte :=
  (0b11100#5 ++ shift ++ ntype).cast (by decide)

/-- `NOISE_ATT`, `1 11 1 aaaa` (R77). -/
def noiseAttByte (level : Att) : Byte := (0b1111#4 ++ level).cast (by decide)

/-- The raw word of an instruction. Pins a step does not drive are 0 in its word. -/
def encode : Instr → RawWord
  | .beginOp cfgOk now => .cmd (CmdRecord.ofOp 0) cfgOk now
  | .endOp => encodeOp 1
  | .setTone osc freq => .cmd { CmdRecord.ofOp 2 with osc := osc, freq := freq } false 0
  | .setToneAtt osc level => .cmd { CmdRecord.ofOp 3 with osc := osc, level := level } false 0
  | .muteTone osc => .cmd { CmdRecord.ofOp 4 with osc := osc } false 0
  | .setNoise ntype shift => .cmd { CmdRecord.ofOp 5 with ntype := ntype, shift := shift } false 0
  | .setNoiseAtt level => .cmd { CmdRecord.ofOp 6 with level := level } false 0
  | .muteNoise => encodeOp 7
  | .playNote freq duration cfg index =>
    .cmd { CmdRecord.ofOp 8 with freq := freq, duration := duration, cfg := cfg, osc := index }
      false 0
  | .reserved9 => encodeOp 9
  | .reserved10 => encodeOp 10
  | .reserved11 => encodeOp 11
  | .reserved12 => encodeOp 12
  | .reserved13 => encodeOp 13
  | .reserved14 => encodeOp 14
  | .reserved15 => encodeOp 15
  | .tick now => .tick now
  | .toneDivLo osc lo => .bus (toneDivLoByte osc lo)
  | .toneDivHi hi => .bus (toneDivHiByte hi)
  | .toneAtt osc level => .bus (toneAttByte osc level)
  | .noiseCtl shift ntype => .bus (noiseCtlByte shift ntype)
  | .noiseAtt level => .bus (noiseAttByte level)
  | .writeToneRegister osc => .pin .toneRegister (toneDivLoByte osc 0)
  | .writeNoiseRegister => .pin .noiseRegister 0b11100000
  | .writeFrequencyLow lo => .pin .frequencyLow (toneDivLoByte 0 lo)
  | .writeFrequencyHigh hi => .pin .frequencyHigh (toneDivHiByte hi)
  | .writeAttenuation level => .pin .attenuation ((0b0001#4 ++ level).cast (by decide))
  | .writeNoiseControl ntype shift =>
    .pin .noiseControl ((0#5 ++ shift ++ ntype).cast (by decide))
  | .latch => .pin .latch 0

/-! ## The table's numbering (log 11) -/

/-- The raw word of a bare number, bit 0 least significant: 32 bits are a tick's timestamp; a number
below 16 is a command's op code with every operand zero; any other byte is a bus byte. -/
def tableWord (nbits w : Nat) : RawWord :=
  if nbits = 32 then .tick (BitVec.ofNat 32 w)
  else if w < 16 then encodeOp (BitVec.ofNat 4 w)
  else .bus (BitVec.ofNat 8 w)

/-- The instruction the decoder reads from a table word. -/
def decodeTableWord (nbits w : Nat) : Option Instr :=
  match decode (tableWord nbits w) with
  | .ok i => some i
  | .error _ => none

end Sys2Proof
end

