-- ==== Sys2Proof/Machine/State.lean ====
section
/-! DEFINITION. The state of the CORE (10_state.md), its reset value, and the reasons a step stops. -/

namespace Sys2Proof.Machine

open Sys2Proof

/-! ## Voices (R20 to R25) -/

/-- `voice[i].phase`, the four countdown counters (R24). -/
structure PhaseCounters where
  attackLeft  : Time
  decayLeft   : Time
  sustainLeft : Time
  releaseLeft : Time
deriving DecidableEq, Repr

/-- A voice slot (R20 to R25). The oscillator index is hardwired to the slot (R20). -/
structure Voice where
  config        : VoiceConfig
  phase         : PhaseCounters
  baseFrequency : Freq
  elapsedTime   : Elapsed
  playing       : Bool
deriving DecidableEq, Repr

/-- The reset value of a voice (R36). -/
def Voice.zero : Voice :=
  { config := VoiceConfig.zero
    phase := { attackLeft := 0, decayLeft := 0, sustainLeft := 0, releaseLeft := 0 }
    baseFrequency := 0, elapsedTime := 0, playing := false }

/-- The three voice slots (R20). -/
structure Voices where
  v0 : Voice
  v1 : Voice
  v2 : Voice
deriving DecidableEq, Repr

/-- Every voice at its reset value (R36). -/
def Voices.zero : Voices := { v0 := Voice.zero, v1 := Voice.zero, v2 := Voice.zero }

/-! ## Sequencer, faults, pins (R30, R31, R33) -/

/-- The stage of a voice's processing within a tick (R30). -/
inductive VoiceStage where
  | vibrato | tremolo | envelope
deriving DecidableEq, Repr

/-- The steps of PLAY_NOTE (R141, R142, R143). -/
inductive NoteStep where
  | select | split | initialise
deriving DecidableEq, Repr

/-- The step of an operation that the sequencer is in (R30), apart from the position within its bus
transactions. -/
inductive Place where
  /-- BEGIN and END (R197, R198). -/
  | lifecycle
  /-- A direct write (R121 to R126). -/
  | direct
  /-- A step of PLAY_NOTE (R140). -/
  | note (step : NoteStep)
  /-- A tick before its voice loop (R191). -/
  | tickStart
  /-- A tick at a voice and the stage within it (R192, R193). -/
  | voice (i : Slot) (stage : VoiceStage)
deriving DecidableEq, Repr

/-- Where a bus transaction stands, by the event list of 41_register_write_protocol.md R117: `present k`
after `k` events of (1), `lowered` after (2), `held` after (3), `raised` after (4). -/
inductive BusStep where
  | present (events : Nat)
  | lowered
  | held
  | raised
deriving DecidableEq, Repr

/-- The position within the bus transactions of a step: how many are complete, and where the next one
stands (R30, R117). -/
structure BusPos where
  complete : Nat
  step     : BusStep
deriving DecidableEq, Repr

/-- The sequencer `seq`, the CORE's program counter (R30): `idle` when no operation is in progress,
otherwise a position in the operation's step list. A position is held inside the one step an operation
takes (R11). `steps` holds internal steps still to be run one at a time, the next one first (log 1). -/
inductive Seq where
  | idle
  | inside (place : Place) (pos : BusPos)
  | steps (next : RawWord) (rest : List RawWord)
deriving DecidableEq, Repr

/-- `fault_cause` (R31, R211). -/
inductive FaultCause where
  | none | configError | busIOError
deriving DecidableEq, Repr

/-- A pin event (R17, R117), in the pins' own notation. -/
inductive PinEvent where
  /-- `D[hi:lo] <- v`: only these pins are driven, the others stay as they are. -/
  | data (hi lo : Nat) (v : Byte)
  /-- `WE_n <- level`. -/
  | weN (level : Bool)
  /-- `wait >= t` seconds; the pin driver is not asked. -/
  | wait (atLeast : Rat)
deriving DecidableEq, Repr

/-! ## Inputs (R34, R201, R212; log 2, log 3) -/

/-- What the environment does to the inputs between two steps. `cmd` absent means the host leaves the
command port as it is; `tick` raises a tick request, which merges with one that waits (R201); `reset`
asserts `rst_n` (R240) for that frame; one held low is asserted in frames in a row (log 16). -/
structure EnvFrame where
  reset     : Bool
  cmd       : Option CmdRecord
  tick      : Bool
  now       : Time
  cfgOk     : Bool
  tickFirst : Bool
deriving DecidableEq, Repr

/-- The inputs of the block. A request stays on its port until it is accepted (R201). -/
structure Inputs where
  /-- `cmd_valid` with the command's fields. -/
  cmdPort   : Option CmdRecord
  /-- `tick_req`. -/
  tickReq   : Bool
  /-- `now`. -/
  now       : Time
  /-- `cmd_cfg_ok`. -/
  cfgOk     : Bool
  /-- Which of a waiting tick and a waiting command is taken first: `ARB`, left open (R9, R11). -/
  tickFirst : Bool
  /-- The pin driver's coming answers on `io_fail`, true is a failure; after the list, ok (log 3). -/
  ioFail    : List Bool
  /-- The environment's coming frames, one taken at the end of each step (log 2). -/
  script    : List EnvFrame
deriving DecidableEq, Repr

/-- The inputs `State.reset` names (R241: unspecified by the spec; log 2, log 3). -/
def Inputs.reset : Inputs :=
  { cmdPort := none, tickReq := false, now := 0, cfgOk := false, tickFirst := false
    ioFail := [], script := [] }

/-! ## The state -/

/-- The state of the machine (10_state.md). -/
structure State where
  /-- The configuration constants, written by no operation (R32; log 4). -/
  params       : Config.Params
  /-- The Voice State Store's tone slots (R20). -/
  voices       : Voices
  /-- `noise.playing` (R28). -/
  noisePlaying : Bool
  /-- `lastTickTimestamp` (R29). -/
  lastTick     : Time
  /-- `started` (R31). -/
  started      : Bool
  /-- `busy` (R31). -/
  busy         : Bool
  /-- `fault` (R31). -/
  fault        : Bool
  /-- `fault_cause` (R31, R211). -/
  faultCause   : FaultCause
  /-- `seq` (R30). -/
  seq          : Seq
  /-- `D[7:0]` (R33). -/
  d            : Byte
  /-- `WE_n`, active low (R33). -/
  weN          : Bool
  /-- The bus trace, oldest byte first (R53). -/
  trace        : List Byte
  /-- The pin events since reset, oldest first (R12, R117). -/
  pinLog       : List PinEvent
  /-- The byte whose pulse a BusIOError cut short, if any (R214, U9; log 10). -/
  cutByte      : Option Byte
  /-- The input pins and what the environment will do (R34). -/
  inputs       : Inputs
deriving DecidableEq, Repr

/-- The constants of the machine that `State.reset` describes, all unknown (log 4). -/
def resetParams : Config.Params :=
  { masterClockHz := Config.masterClockHz, writeCycles := Config.writeCycles
    earlyStop := Config.earlyStop }

/-- The machine right after reset (R36, R240). -/
def State.reset : State :=
  { params := resetParams
    voices := Voices.zero
    noisePlaying := false
    lastTick := 0
    started := false
    busy := false
    fault := false
    faultCause := .none
    seq := .idle
    d := 0
    weN := true
    trace := []
    pinLog := []
    cutByte := none
    inputs := Inputs.reset }

/-! ## Why a step stops -/

/-- Nothing stops this machine with a fault: ConfigError and BusIOError are states it enters (R213,
R214), and no operand value raises anything (R211). So the type has no constructor; nobody raises
one. -/
inductive Fault
deriving DecidableEq, Repr

/-- The refusals. -/
inductive Refusal where
  /-- An instruction with no meaning yet, by its mnemonic: raised by `exec`'s arm only; safe. -/
  | notModelled (mnemonic : String)
  /-- The sequencer holds an internal step's word the decoder rejects (R78, U15): raised by `step`;
  no operation of the CORE produces one; safe. -/
  | undecodable (e : DecodeError)
  /-- TONE_DIV_LO, TONE_ATT or writeToneRegister with oscillator field 3, outside the operand's domain
  (R77, R111): raised by their meanings; no decoder and no operation produces one; safe. -/
  | oscillatorOutOfRange
deriving DecidableEq, Repr

/-- What a meaning answers. -/
abbrev Result := Host.Outcome State Fault Refusal

end Sys2Proof.Machine
end

