-- ==== Sys2Proof/Machine/Ops.lean ====
section
/-! DEFINITION. The named operations over the state: voices, pins, acceptance and completion, entering
the fault state, hardware reset, and what the environment does between steps. -/

namespace Sys2Proof.Machine

open Sys2Proof

/-! ## Voices -/

/-- `voice[i]` (R17). -/
def Voices.get (vs : Voices) (i : Slot) : Voice :=
  match i with
  | 0 => vs.v0
  | 1 => vs.v1
  | 2 => vs.v2

/-- `voice[i] <- v` (R17). -/
def Voices.set (vs : Voices) (i : Slot) (v : Voice) : Voices :=
  match i with
  | 0 => { vs with v0 := v }
  | 1 => { vs with v1 := v }
  | 2 => { vs with v2 := v }

/-- `voice[i]` of a state. -/
def State.voice (s : State) (i : Slot) : Voice := s.voices.get i

/-- `voice[i] <- v`. -/
def State.setVoice (s : State) (i : Slot) (v : Voice) : State :=
  { s with voices := s.voices.set i v }

/-- The voices and the noise slot at their reset values (R36, R197, R198). -/
def State.clearVoices (s : State) : State := { s with voices := Voices.zero, noisePlaying := false }

/-- `lastTickTimestamp <- now` (R191, R197). -/
def State.setLastTick (s : State) (now : Time) : State := { s with lastTick := now }

/-- `started <- b` (R197, R198). -/
def State.setStarted (s : State) (b : Bool) : State := { s with started := b }

/-! ## An operation under way -/

/-- An operation under way: still going, or aborted by a fault and already in the fault state. -/
inductive Progress where
  | going (s : State)
  | aborted (s : State)
deriving DecidableEq, Repr

/-- Go on with the operation's next part, unless it was aborted (R214: "the rest of the operation's
step list is not executed"). -/
def Progress.andThen (p : Progress) (f : State → Progress) : Progress :=
  match p with
  | .going s => f s
  | .aborted s => .aborted s

/-- The state reached. -/
def Progress.state : Progress → State
  | .going s => s
  | .aborted s => s

/-- The position before the first event of a step's first transaction. -/
def BusPos.start : BusPos := { complete := 0, step := .present 0 }

/-- Acceptance of an operation: `busy` is set and the sequencer leaves IDLE (R30, R31). -/
def State.accept (s : State) (place : Place) : State :=
  { s with busy := true, seq := .inside place .start }

/-- `seq <- place`: the sequencer goes on to the operation's next step (R17, R30). -/
def State.moveTo (s : State) (place : Place) : State := { s with seq := .inside place .start }

/-- Completion: `busy` is cleared and the sequencer returns to IDLE (R30, R31). -/
def State.complete (s : State) : State := { s with busy := false, seq := .idle }

/-- The end of an operation, completed or aborted. -/
def Progress.finish : Progress → State
  | .going s => s.complete
  | .aborted s => s

/-- `started = 1` and `fault = 0`: the one lifecycle state in which operations other than BEGIN take
effect (R199, R222). -/
def State.running (s : State) : Bool := s.started && !s.fault

/-! ## Pins (R33, R110, R117) -/

/-- The pins `hi` down to `lo` as a mask. -/
def pinMask (hi lo : Nat) : Byte := ((1#8 <<< (hi + 1 - lo)) - 1#8) <<< lo

/-- `D[hi:lo] <- v`: the other pins keep their level (R17). -/
def driveField (d : Byte) (hi lo : Nat) (v : Byte) : Byte :=
  (d &&& ~~~(pinMask hi lo)) ||| ((v <<< lo) &&& pinMask hi lo)

/-- Whether the pin driver is asked: a wait drives nothing (R212). -/
def PinEvent.asks : PinEvent → Bool
  | .data _ _ _ => true
  | .weN _ => true
  | .wait _ => false

/-- The answers left after an event. -/
def PinEvent.answersLeft (e : PinEvent) (answers : List Bool) : List Bool :=
  if e.asks then answers.tail else answers

/-- The position past one event of the list of R117; (5) `D <- 0x00` completes the transaction. BEGIN and
END drive their pins without a pulse and stay in (1), a DESIGN CHOICE (log 1). Any other event is no next
event of R117. -/
def BusPos.after (p : BusPos) (e : PinEvent) : BusPos :=
  match p.step, e with
  | .present k, .data _ _ _ => { p with step := .present (k + 1) }
  | .present k, .weN true => { p with step := .present (k + 1) }
  | .present _, .weN false => { p with step := .lowered }
  | .lowered, .wait _ => { p with step := .held }
  | .held, .weN true => { p with step := .raised }
  | .raised, .data _ _ _ => { complete := p.complete + 1, step := .present 0 }
  | .present _, .wait _ => p
  | .lowered, .data _ _ _ => p
  | .lowered, .weN _ => p
  | .held, .data _ _ _ => p
  | .held, .weN false => p
  | .held, .wait _ => p
  | .raised, .weN _ => p
  | .raised, .wait _ => p

/-- The sequencer past one pin event: inside an operation it advances within the transaction (R30). -/
def Seq.afterEvent (q : Seq) (e : PinEvent) : Seq :=
  match q with
  | .inside place pos => .inside place (pos.after e)
  | .idle => .idle
  | .steps next rest => .steps next rest

/-- The sequencer past pin events. -/
def Seq.after (q : Seq) (es : List PinEvent) : Seq := es.foldl Seq.afterEvent q

/-- The effect of a pin event that happens. A rising edge of `WE_n` completes a pulse, and the byte on
the pins joins the bus trace (R53, R116, R214). -/
def applyEvent (e : PinEvent) (s : State) : State :=
  let s := { s with pinLog := s.pinLog ++ [e]
                    seq := s.seq.afterEvent e
                    inputs := { s.inputs with ioFail := e.answersLeft s.inputs.ioFail } }
  match e with
  | .data hi lo v => { s with d := driveField s.d hi lo v }
  | .weN level =>
    { s with weN := level, trace := if !s.weN && level then s.trace ++ [s.d] else s.trace }
  | .wait _ => s

/-- Pin events that all happen, in order. -/
def applyEvents (es : List PinEvent) (s : State) : State := es.foldl (fun s e => applyEvent e s) s

/-! ## Faults (60_exceptions.md) -/

/-- Entering the fault state (R213, R214): `fault` and its cause are set, the operation is over.
Nothing is saved and there is no handler (R219). -/
def State.enterFault (s : State) (cause : FaultCause) : State :=
  { s with fault := true, faultCause := cause, seq := .idle, busy := false }

/-- `raise ConfigError` (R213): no voice, no pin and no trace changes. -/
def State.raiseConfigError (s : State) : State := s.enterFault .configError

/-- The clean-up drives of the fault path, `WE_n <- 1; D <- 0x00`, attempted once each with their
answers ignored (R119, R214; log 7). A pulse that was low is cut short: its byte does not join the
trace (R214, U9). -/
def State.pinsToIdle (s : State) : State :=
  { s with weN := true, d := 0
           cutByte := if s.weN then s.cutByte else some s.d
           pinLog := s.pinLog ++ [.weN true, .data 7 0 0]
           inputs := { s.inputs with ioFail := s.inputs.ioFail.drop 2 } }

/-- `raise BusIOError` at an event whose answer is `fail`: the event has not happened, and its answer
is used up (R214). -/
def State.raiseBusIOError (s : State) : State :=
  { s with inputs := { s.inputs with ioFail := s.inputs.ioFail.tail } }.pinsToIdle.enterFault .busIOError

/-- There is no return from a fault: the hardware reset is the only way out (R215, R220). It puts the
CORE's state at the reset column of R36; the constants and the inputs are not the CORE's (R32, R34). -/
def State.hardReset (s : State) : State :=
  { State.reset with params := s.params, inputs := s.inputs }

/-! ## Driving a list of pin events -/

/-- The driver's answer to an event: `fail` if it is asked and its next answer is a failure (R212). -/
def State.fails (s : State) (e : PinEvent) : Bool := e.asks && s.inputs.ioFail.headD false

/-- Pin events in order; the first failing one aborts the operation (R129, R214, R218 (d)). -/
def drivePins : List PinEvent → State → Progress
  | [], s => .going s
  | e :: es, s => if s.fails e then .aborted s.raiseBusIOError else drivePins es (applyEvent e s)

/-! ## Between operations (R201; log 2) -/

/-- `cmd_ready` and `tick_ack` can be 1: no operation is in progress (R34, R201). -/
def State.ready (s : State) : Bool := !s.busy

/-- The inputs after a frame of the environment: a presented command stands on the port, a tick
request merges with one that waits (R201). -/
def Inputs.after (inp : Inputs) (f : EnvFrame) (rest : List EnvFrame) : Inputs :=
  { cmdPort := match f.cmd with
               | some r => some r
               | none => inp.cmdPort
    tickReq := inp.tickReq || f.tick
    now := f.now, cfgOk := f.cfgOk, tickFirst := f.tickFirst
    ioFail := inp.ioFail, script := rest }

/-- What the environment does at the end of a step: its next frame lands; an asserted `rst_n` resets
the CORE (R240). DESIGN CHOICE: `rst_n` has no level, so between two frames that assert it a step still
accepts a waiting request, whose effect the second frame resets away (log 16). -/
def State.arrive (s : State) : State :=
  match s.inputs.script with
  | [] => s
  | f :: rest =>
    let s' := { s with inputs := s.inputs.after f rest }
    if f.reset then s'.hardReset else s'

end Sys2Proof.Machine
end

