-- ==== Sys2Proof/Machine/Operands.lean ====
section
/-! DEFINITION. Operand forms: the Frequency Quantizer (40_quantizer.md), the pin events of every
internal step and of every register write (41_register_write_protocol.md), oscillator and slot
indices, and floor division. -/

namespace Sys2Proof.Machine

open Sys2Proof

/-! ## Arithmetic (R16) -/

/-- `a div b` of R16, floor division on naturals; by zero it is the free value (log 6). -/
def floorDiv (a b : Nat) : Nat := if b = 0 then Config.divByZero a else a / b

/-- `min(a, b)` on times. -/
def minTime (a b : Time) : Time := if a ≤ b then a else b

/-! ## Indices -/

/-- The oscillator field of a slot: slot `i` is bound to oscillator `i` (R20). -/
def oscOf (i : Slot) : Osc :=
  match i with
  | 0 => 0
  | 1 => 1
  | 2 => 2

/-- The slot an oscillator field names; the field value 3 names none (R83 (b), R141). -/
def slotOf (o : Osc) : Option Slot :=
  match o.toNat with
  | 0 => some 0
  | 1 => some 1
  | 2 => some 2
  | _ => none

/-! ## The Frequency Quantizer (R100) -/

/-- `MIN_FREQ = MASTER_CLOCK_HZ / (32 * 1023)` (R100). -/
def minFreq (clock : ℕ+) : Freq := ((clock : ℕ) : Rat) / (32 * 1023)

/-- `MAX_FREQ = MASTER_CLOCK_HZ / (32 * 1)` (R100). -/
def maxFreq (clock : ℕ+) : Freq := ((clock : ℕ) : Rat) / 32

/-- The frequency clamped to `[MIN_FREQ, MAX_FREQ]` (R100). -/
def clampFreq (clock : ℕ+) (f : Freq) : Freq :=
  if f < minFreq clock then minFreq clock else if maxFreq clock < f then maxFreq clock else f

/-- `quantize(f)`: clamp, divide, round to the nearest with ties upward, keep 10 bits (R100). -/
def quantize (clock : ℕ+) (f : Freq) : Div :=
  BitVec.ofNat 10 (((clock : ℕ) : Rat) / (32 * clampFreq clock f) + 1 / 2).floor.toNat

/-! ## The write pulse (R127) -/

/-- `WRITE_TIME = WRITE_CYCLES / MASTER_CLOCK_HZ` seconds (R127). -/
def writeTime (p : Config.Params) : Rat := ((p.writeCycles : ℕ) : Rat) / ((p.masterClockHz : ℕ) : Rat)

/-- The pulse in cycles of a block clock of `clk` hertz: at least
`ceil(WRITE_CYCLES * F_CLK_HZ / MASTER_CLOCK_HZ)` (R127), and at least 1 (D10). No step reads it. -/
def pulseClocks (p : Config.Params) (clk : ℕ+) : Nat :=
  max 1 (writeTime p * ((clk : ℕ) : Rat)).ceil.toNat

/-! ## The pin events of the internal steps (R111 to R118) -/

/-- `writeToneRegister(osc)`: `D[7] <- 1; D[6:5] <- osc[1:0]; D[4] <- 0` (R111). -/
def toneRegisterEvents (osc : Osc) : List PinEvent :=
  [.data 7 7 1, .data 6 5 (osc.setWidth 8), .data 4 4 0]

/-- `writeNoiseRegister()`: `D[7:4] <- 0b1110` (R112). -/
def noiseRegisterEvents : List PinEvent := [.data 7 4 0b1110]

/-- `writeFrequencyLow(n)`: `D[7] <- 1; D[3:0] <- n[3:0]` (R113). -/
def frequencyLowEvents (lo : BitVec 4) : List PinEvent := [.data 7 7 1, .data 3 0 (lo.setWidth 8)]

/-- `writeFrequencyHigh(n)`: `D[7] <- 0; D[5:0] <- n[9:4]`, `D[6]` not driven (R114). -/
def frequencyHighEvents (hi : BitVec 6) : List PinEvent := [.data 7 7 0, .data 5 0 (hi.setWidth 8)]

/-- `writeAttenuation(level)`: `D[4] <- 1; D[3:0] <- level[3:0]` (R115). -/
def attenuationEvents (level : Att) : List PinEvent := [.data 4 4 1, .data 3 0 (level.setWidth 8)]

/-- `writeNoiseControl(type, shift)`: `D[0] <- type; D[2:1] <- shift[1:0]`, `D[3]` not driven
(R118). -/
def noiseControlEvents (ntype : BitVec 1) (shift : BitVec 2) : List PinEvent :=
  [.data 0 0 (ntype.setWidth 8), .data 2 1 (shift.setWidth 8)]

/-- `latch()`: `WE_n <- 0; wait >= WRITE_TIME; WE_n <- 1; D <- 0x00` (R116). -/
def latchEvents (p : Config.Params) : List PinEvent :=
  [.weN false, .wait (writeTime p), .weN true, .data 7 0 0]

/-! ## The pin events of the register writes (R120 to R126) -/

/-- `writeToneRegister(osc); writeFrequencyLow(n); latch()`: TONE_DIV_LO (R120). -/
def toneDivLoEvents (p : Config.Params) (osc : Osc) (lo : BitVec 4) : List PinEvent :=
  toneRegisterEvents osc ++ frequencyLowEvents lo ++ latchEvents p

/-- `writeFrequencyHigh(n); latch()`: TONE_DIV_HI (R120). -/
def toneDivHiEvents (p : Config.Params) (hi : BitVec 6) : List PinEvent :=
  frequencyHighEvents hi ++ latchEvents p

/-- The low four bits of a divisor, sent first (R56, R76). -/
def divLo (n : Div) : BitVec 4 := n.extractLsb' 0 4

/-- The high six bits of a divisor, sent second (R56, R76). -/
def divHi (n : Div) : BitVec 6 := n.extractLsb' 4 6

/-- `writeDivisor(osc, n)`: two bytes, low part first (R120). -/
def divisorEvents (p : Config.Params) (osc : Osc) (n : Div) : List PinEvent :=
  toneDivLoEvents p osc (divLo n) ++ toneDivHiEvents p (divHi n)

/-- `writeToneRegister(osc); writeAttenuation(level); latch()`: TONE_ATT (R122). -/
def toneAttEvents (p : Config.Params) (osc : Osc) (level : Att) : List PinEvent :=
  toneRegisterEvents osc ++ attenuationEvents level ++ latchEvents p

/-- `writeNoiseRegister(); writeNoiseControl(type, shift); latch()`: NOISE_CTL (R124). -/
def noiseCtlEvents (p : Config.Params) (ntype : BitVec 1) (shift : BitVec 2) : List PinEvent :=
  noiseRegisterEvents ++ noiseControlEvents ntype shift ++ latchEvents p

/-- `writeNoiseRegister(); writeAttenuation(level); latch()`: NOISE_ATT (R125). -/
def noiseAttEvents (p : Config.Params) (level : Att) : List PinEvent :=
  noiseRegisterEvents ++ attenuationEvents level ++ latchEvents p

/-- The pins driven to their idle levels by BEGIN and END: `D <- 0x00; WE_n <- 1` (R197, R198). -/
def idleEvents : List PinEvent := [.data 7 0 0, .weN true]

/-- `ATTENUATION_SILENCE` (R9, D27). -/
def silence : Att := 15

end Sys2Proof.Machine
end

