-- ==== Sys2Proof/Machine/Flags.lean ====
section
/-! DEFINITION. The flags and what is computed from them: the fault cause's code, the lifecycle mode, the
active phase of a voice, the phase selection and the idle decision of the Envelope Engine, and the
half-period test of the Modulation Engine. -/

namespace Sys2Proof.Machine

open Sys2Proof

/-- The two-bit code of `fault_cause` on the status output (R31, R211). -/
def FaultCause.code : FaultCause → BitVec 2
  | .none => 0
  | .configError => 1
  | .busIOError => 2

/-- The lifecycle states (R222). -/
inductive Mode where
  | stopped | running | faulted
deriving DecidableEq, Repr

/-- The lifecycle state of the CORE (R222). -/
def State.mode (s : State) : Mode :=
  if s.fault then .faulted else if s.started then .running else .stopped

/-- The phase an envelope step evaluates (R151). -/
inductive Sel where
  | attack | decay | sustain | release | none
deriving DecidableEq, Repr

/-- `selectPhase(v)`: the first of attack, decay, sustain, release whose counter is non-zero (R151). -/
def selectPhase (p : PhaseCounters) : Sel :=
  if p.attackLeft ≠ 0 then .attack
  else if p.decayLeft ≠ 0 then .decay
  else if p.sustainLeft ≠ 0 then .sustain
  else if p.releaseLeft ≠ 0 then .release
  else .none

/-- The active phase of a voice, a function of its state (R27). -/
inductive ActivePhase where
  | idle | attack | decay | sustain | release | expired
deriving DecidableEq, Repr

/-- `phaseOf(v)` (R27). -/
def phaseOf (v : Voice) : ActivePhase :=
  if v.playing then
    match selectPhase v.phase with
    | .attack => .attack
    | .decay => .decay
    | .sustain => .sustain
    | .release => .release
    | .none => .expired
  else .idle

/-- `playing` after an envelope step that evaluated `sel` and computed `att`: cleared by the release
check (R156) and by the force-idle (R157), else unchanged (R150). -/
def playingAfter (sel : Sel) (att : Att) (playing : Bool) : Bool :=
  match sel with
  | .release => if att = silence then false else playing
  | .none => false
  | .attack | .decay | .sustain => playing

/-- The half-period test, false for a zero period (R172, R175, R178). -/
def halfPeriodHigh (e : Nat) (period : Time) : Bool :=
  period.toNat != 0 && decide (period.toNat < 2 * (e % period.toNat))

end Sys2Proof.Machine
end

