-- ==== Sys2Proof/Machine/Allocation.lean ====
section
/-! DEFINITION. PLAY_NOTE (42_voice_allocation.md). -/

namespace Sys2Proof.Machine

open Sys2Proof

/-- Step 1, target selection: an explicit index is taken whatever it holds; index 3 takes the first
voice that is not playing; if there is none the note is dropped (R141). -/
def playTarget (s : State) (index : Osc) : Option Slot :=
  match slotOf index with
  | some i => some i
  | none =>
    if !s.voices.v0.playing then some 0
    else if !s.voices.v1.playing then some 1
    else if !s.voices.v2.playing then some 2
    else none

/-- Step 2, the duration split: attack, then decay, then sustain take what is left of the duration;
release is always `config.release` (R142). -/
def splitDuration (duration : Time) (env : EnvelopeConfig) : PhaseCounters :=
  let attack := minTime env.attack duration
  let decay := minTime env.decay (duration - attack)
  { attackLeft := attack, decayLeft := decay, sustainLeft := duration - attack - decay
    releaseLeft := env.release }

/-- Step 2 on the target voice: its counters (R142). -/
def splitStep (duration : Time) (env : EnvelopeConfig) (t : Slot) (s : State) : State :=
  (s.moveTo (.note .split)).setVoice t { s.voice t with phase := splitDuration duration env }

/-- Step 3 on the target voice: the config whole, `elapsedTime` 0, the frequency as given, playing
(R143). -/
def initialiseStep (freq : Freq) (cfg : VoiceConfig) (t : Slot) (s : State) : State :=
  (s.moveTo (.note .initialise)).setVoice t
    { s.voice t with config := cfg, elapsedTime := 0, baseFrequency := freq, playing := true }

/-- `playNote` in the running state, its three steps from acceptance to completion; no pin is driven
(R140, R144). -/
def startNote (freq : Freq) (duration : Time) (cfg : VoiceConfig) (index : Osc) (s : State) : State :=
  let s := s.accept (.note .select)
  match playTarget s index with
  | some t => (initialiseStep freq cfg t (splitStep duration cfg.envelope t s)).complete
  | none => s.complete

/-- `playNote(frequency, duration, config, explicitIndex)` (R140); outside the running state it has no
effect (R199). -/
def execPlayNote (freq : Freq) (duration : Time) (cfg : VoiceConfig) (index : Osc) (s : State) :
    Result :=
  .next (if s.running then startNote freq duration cfg index s else s)

end Sys2Proof.Machine
end

