-- ==== Sys2Proof/Machine/BusWord.lean ====
section
/-! DEFINITION. The bus words (30_encoding.md R77): each is one BusWrite of its byte (20_memory.md R52),
made by the pin steps that emit it (41_register_write_protocol.md R120 to R125). They are parts of an
operation that has been accepted, so they test no lifecycle state (log 8). -/

namespace Sys2Proof.Machine

open Sys2Proof

/-- Internal steps of an operation under way: their pin events (R117). -/
def busSteps (es : List PinEvent) (s : State) : Result := .next (drivePins es s).state

/-- A tone word names an oscillator 0 to 2; the field value 3 is outside the operand's domain (R77,
log 13). -/
def toneSteps (osc : Osc) (es : List PinEvent) (s : State) : Result :=
  if osc = 3 then .refused .oscillatorOutOfRange else busSteps es s

/-- TONE_DIV_LO (R120). -/
def execToneDivLo (osc : Osc) (lo : BitVec 4) (s : State) : Result :=
  toneSteps osc (toneDivLoEvents s.params osc lo) s

/-- TONE_DIV_HI (R120). -/
def execToneDivHi (hi : BitVec 6) (s : State) : Result := busSteps (toneDivHiEvents s.params hi) s

/-- TONE_ATT (R122). -/
def execToneAtt (osc : Osc) (level : Att) (s : State) : Result :=
  toneSteps osc (toneAttEvents s.params osc level) s

/-- NOISE_CTL (R124). -/
def execNoiseCtl (shift : BitVec 2) (ntype : BitVec 1) (s : State) : Result :=
  busSteps (noiseCtlEvents s.params ntype shift) s

/-- NOISE_ATT (R125). -/
def execNoiseAtt (level : Att) (s : State) : Result := busSteps (noiseAttEvents s.params level) s

end Sys2Proof.Machine
end

