-- ==== Sys2Proof/Machine/DirectWrite.lean ====
section
/-! DEFINITION. The six operations that are one register write (41_register_write_protocol.md R121 to
R126), with their reserved oscillator field (R83 (b)) and acceptance (R199). -/

namespace Sys2Proof.Machine

open Sys2Proof

/-- A direct write accepted in the running state: its pin events from acceptance to completion or abort
(R11, R128). -/
def runDirect (es : List PinEvent) (s : State) : State := (drivePins es (s.accept .direct)).finish

/-- A direct write outside the running state has no effect (R199). -/
def directWrite (es : List PinEvent) (s : State) : Result :=
  .next (if s.running then runDirect es s else s)

/-- A direct tone write with oscillator field 3 has no effect (R83 (b)). -/
def directToneWrite (osc : Osc) (es : List PinEvent) (s : State) : Result :=
  if osc = 3 then .next s else directWrite es s

/-- `setTone(osc, f)`: `writeDivisor(osc, quantize(f))` (R121). -/
def execSetTone (osc : Osc) (freq : Freq) (s : State) : Result :=
  directToneWrite osc (divisorEvents s.params osc (quantize s.params.masterClockHz freq)) s

/-- `setToneAttenuation(osc, level)` (R122). -/
def execSetToneAtt (osc : Osc) (level : Att) (s : State) : Result :=
  directToneWrite osc (toneAttEvents s.params osc level) s

/-- `muteTone(osc)` is `setToneAttenuation(osc, 15)` (R86, R123). -/
def execMuteTone (osc : Osc) (s : State) : Result :=
  directToneWrite osc (toneAttEvents s.params osc silence) s

/-- `setNoise(type, shift)` (R124). -/
def execSetNoise (ntype : BitVec 1) (shift : BitVec 2) (s : State) : Result :=
  directWrite (noiseCtlEvents s.params ntype shift) s

/-- `setNoiseAttenuation(level)` (R125). -/
def execSetNoiseAtt (level : Att) (s : State) : Result := directWrite (noiseAttEvents s.params level) s

/-- `muteNoise()` is `setNoiseAttenuation(15)` (R86, R126). -/
def execMuteNoise (s : State) : Result := directWrite (noiseAttEvents s.params silence) s

end Sys2Proof.Machine
end

