-- ==== Sys2Proof/Machine/Lifecycle.lean ====
section
/-! DEFINITION. BEGIN and END (45_tick_scheduler.md R197, R198) and the reserved op codes
(30_encoding.md R83 (a)). -/

namespace Sys2Proof.Machine

open Sys2Proof

/-- The pins driven to idle by BEGIN or END, then `started` written; a failing drive leaves `started` as
it was (R197, R198, R214). -/
def settlePins (started : Bool) (s : State) : State :=
  ((drivePins idleEvents s).andThen
    fun s => .going (s.setStarted started)).finish

/-- `begin()` (R197): the configuration's answer is tested before any state is written (R213, R218 (e)). -/
def execBegin (cfgOk : Bool) (now : Time) (s : State) : Result :=
  .next (if s.fault then s
         else if cfgOk then settlePins true ((s.accept .lifecycle).clearVoices.setLastTick now)
         else s.raiseConfigError)

/-- `end()` (R198): `lastTickTimestamp` is left as it is. -/
def execEnd (s : State) : Result :=
  .next (if s.running then settlePins false (s.accept .lifecycle).clearVoices else s)

/-- A reserved op code is accepted and has no effect (R83 (a)). -/
def noEffect (s : State) : Result := .next s

/-- Op code 9 (R83 (a)). -/
def execReserved9 (s : State) : Result := noEffect s

/-- Op code 10 (R83 (a)). -/
def execReserved10 (s : State) : Result := noEffect s

/-- Op code 11 (R83 (a)). -/
def execReserved11 (s : State) : Result := noEffect s

/-- Op code 12 (R83 (a)). -/
def execReserved12 (s : State) : Result := noEffect s

/-- Op code 13 (R83 (a)). -/
def execReserved13 (s : State) : Result := noEffect s

/-- Op code 14 (R83 (a)). -/
def execReserved14 (s : State) : Result := noEffect s

/-- Op code 15 (R83 (a)). -/
def execReserved15 (s : State) : Result := noEffect s

end Sys2Proof.Machine
end

