-- ==== Sys2Proof/Machine/PinStep.lean ====
section
/-! DEFINITION. The internal steps of the Register Write Protocol (41_register_write_protocol.md R111 to
R118): each drives its pins and, but for `latch`, pulses nothing. -/

namespace Sys2Proof.Machine

open Sys2Proof

/-- writeToneRegister (R111). -/
def execWriteToneRegister (osc : Osc) (s : State) : Result := toneSteps osc (toneRegisterEvents osc) s

/-- writeNoiseRegister (R112). -/
def execWriteNoiseRegister (s : State) : Result := busSteps noiseRegisterEvents s

/-- writeFrequencyLow (R113). -/
def execWriteFrequencyLow (lo : BitVec 4) (s : State) : Result := busSteps (frequencyLowEvents lo) s

/-- writeFrequencyHigh (R114). -/
def execWriteFrequencyHigh (hi : BitVec 6) (s : State) : Result := busSteps (frequencyHighEvents hi) s

/-- writeAttenuation (R115). -/
def execWriteAttenuation (level : Att) (s : State) : Result := busSteps (attenuationEvents level) s

/-- writeNoiseControl (R118). -/
def execWriteNoiseControl (ntype : BitVec 1) (shift : BitVec 2) (s : State) : Result :=
  busSteps (noiseControlEvents ntype shift) s

/-- latch (R116). -/
def execLatch (s : State) : Result := busSteps (latchEvents s.params) s

end Sys2Proof.Machine
end

