-- ==== Sys2Proof/Machine/Envelope.lean ====
section
/-! DEFINITION. The Envelope Engine (43_envelope.md). -/

namespace Sys2Proof.Machine

open Sys2Proof

/-- What is left of a counter after it absorbed what it can of `rem` (R152). -/
def counterAfter (rem c : Time) : Time := c - minTime rem c

/-- What of `rem` a counter could not absorb and passes on (R152). -/
def carryAfter (rem c : Time) : Time := rem - minTime rem c

/-- Consumption of time: `dt` is taken from attack, decay, sustain and release in this order, what one
cannot absorb passes to the next, what none can absorb is dropped (R152). -/
def consume (dt : Time) (p : PhaseCounters) : PhaseCounters :=
  let r1 := carryAfter dt p.attackLeft
  let r2 := carryAfter r1 p.decayLeft
  let r3 := carryAfter r2 p.sustainLeft
  { attackLeft := counterAfter dt p.attackLeft
    decayLeft := counterAfter r1 p.decayLeft
    sustainLeft := counterAfter r2 p.sustainLeft
    releaseLeft := counterAfter r3 p.releaseLeft }

/-- The attenuation of the selected phase as a natural number, on the counters after consumption: attack
R153, decay R154, sustain R155, release R156, force-idle R157. -/
def attenuationNat (sel : Sel) (env : EnvelopeConfig) (p : PhaseCounters) : Nat :=
  match sel with
  | .attack => floorDiv (15 * p.attackLeft.toNat) env.attack.toNat
  | .decay => floorDiv (env.sustain.toNat * (env.decay.toNat - p.decayLeft.toNat)) env.decay.toNat
  | .sustain => env.sustain.toNat
  | .release =>
    env.sustain.toNat +
      floorDiv ((15 - env.sustain.toNat) * (env.release.toNat - p.releaseLeft.toNat))
        env.release.toNat
  | .none => 15

/-- The attenuation as the 4-bit level written; it fits (R159). -/
def attenuationOf (sel : Sel) (env : EnvelopeConfig) (p : PhaseCounters) : Att :=
  BitVec.ofNat 4 (attenuationNat sel env p)

/-- The level an envelope step writes for a voice: select on the counters as they are, compute on the
counters after consumption (R150, D12). -/
def envelopeLevel (dt : Time) (v : Voice) : Att :=
  attenuationOf (selectPhase v.phase) v.config.envelope (consume dt v.phase)

/-- The voice after an envelope step: counters consumed, `playing` by the release check and the
force-idle (R150, R156, R157). -/
def envelopeVoice (dt : Time) (v : Voice) : Voice :=
  { v with phase := consume dt v.phase
           playing := playingAfter (selectPhase v.phase) (envelopeLevel dt v) v.playing }

/-- `envelopeStep(i, dt)` (R150): the voice is written, then one TONE_ATT byte goes out (R158). -/
def envelopeStep (i : Slot) (dt : Time) (s : State) : Progress :=
  let v := s.voice i
  drivePins (toneAttEvents s.params (oscOf i) (envelopeLevel dt v))
    ((s.moveTo (.voice i .envelope)).setVoice i (envelopeVoice dt v))

end Sys2Proof.Machine
end

