-- ==== Sys2Proof/Machine/Modulation.lean ====
section
/-! DEFINITION. The Modulation Engine (44_modulation.md). -/

namespace Sys2Proof.Machine

open Sys2Proof

/-- The vibrato ramp factor `r`, the cases in the spec's order so that a zero rise never divides
(R171). -/
def rampFactor (e : Nat) (vib : VibratoConfig) : Rat :=
  if e ≤ vib.delay.toNat then 0
  else if vib.delay.toNat + vib.rise.toNat ≤ e then 1
  else ((e - vib.delay.toNat : Nat) : Rat) / ((vib.rise.toNat : Nat) : Rat)

/-- The vibrato sign (R172). -/
def vibratoSign (e : Nat) (vib : VibratoConfig) : Rat := if halfPeriodHigh e vib.period then 1 else -1

/-- `vibratoOffset(e, vib) = r * amplitude * sign`, exact (R173). -/
def vibratoOffset (e : Nat) (vib : VibratoConfig) : Freq :=
  rampFactor e vib * vib.amplitude * vibratoSign e vib

/-- The effective frequency `fEff` (R173). -/
def effectiveFreq (v : Voice) : Freq :=
  v.baseFrequency + vibratoOffset v.elapsedTime.toNat v.config.vibrato

/-- `tremoloValue(n, e, trem)`: OR with the mask in the high phase, AND with its complement otherwise
(R175, R176). -/
def tremoloValue (n : Div) (e : Nat) (trem : TremoloConfig) : Div :=
  if halfPeriodHigh e trem.period then n ||| trem.bitMask else n &&& ~~~trem.bitMask

/-- The divisor of the vibrato write (R174). -/
def vibratoDivisor (clock : ℕ+) (v : Voice) : Div := quantize clock (effectiveFreq v)

/-- The divisor of the tremolo write, not quantized again (R176, R177). -/
def tremoloDivisor (clock : ℕ+) (v : Voice) : Div :=
  tremoloValue (vibratoDivisor clock v) v.elapsedTime.toNat v.config.tremolo

/-- `modulationStep(i)` (R170): the vibrato write, in whose stage the sequencer already is, then the
tremolo write, two bytes each. -/
def modulationStep (i : Slot) (s : State) : Progress :=
  let v := s.voice i
  (drivePins (divisorEvents s.params (oscOf i) (vibratoDivisor s.params.masterClockHz v))
      s).andThen fun s1 =>
    drivePins (divisorEvents s.params (oscOf i) (tremoloDivisor s.params.masterClockHz v))
      (s1.moveTo (.voice i .tremolo))

end Sys2Proof.Machine
end

