-- ==== Sys2Proof/Machine/Tick.lean ====
section
/-! DEFINITION. The Tick Scheduler (45_tick_scheduler.md R190 to R196). -/

namespace Sys2Proof.Machine

open Sys2Proof

/-- The voice whose `elapsedTime` the tick has advanced (R193). -/
def agedVoice (dt : Time) (v : Voice) : Voice :=
  { v with elapsedTime := v.elapsedTime + dt.setWidth 34 }

/-- `processVoice(i, dt)`: advance `elapsedTime`, modulation, envelope (R193). -/
def processVoice (dt : Time) (i : Slot) (s : State) : Progress :=
  (modulationStep i
    ((s.moveTo (.voice i .vibrato)).setVoice i (agedVoice dt (s.voice i)))).andThen (envelopeStep i dt)

/-- The voice loop over the slots still to come: `playing` is tested when the loop reaches a voice; an
idle one ends the loop under EARLY_STOP and is skipped otherwise (R192, R194). -/
def voiceLoop (dt : Time) : List Slot → State → Progress
  | [], s => .going s
  | i :: rest, s =>
    if (s.voice i).playing then (processVoice dt i s).andThen (voiceLoop dt rest)
    else if s.params.earlyStop then .going s
    else voiceLoop dt rest s

/-- `dt`, the modular difference of timestamps (R191). -/
def tickDelta (now last : Time) : Time := now - last

/-- A tick in the running state (R190 to R192). -/
def runTick (now : Time) (s : State) : State :=
  (voiceLoop (tickDelta now s.lastTick) [0, 1, 2] ((s.accept .tickStart).setLastTick now)).finish

/-- `tick(now)` (R190); outside the running state it has no effect (R199). -/
def execTick (now : Time) (s : State) : Result := .next (if s.running then runTick now s else s)

end Sys2Proof.Machine
end

