-- ==== Sys2Proof/Machine/Dispatch.lean ====
section
/-! DEFINITION. One arm for each instruction. -/

namespace Sys2Proof.Machine

open Sys2Proof

def exec (i : Instr) (s : State) : Host.Outcome State Fault Refusal :=
  match i with
  | .beginOp cfgOk now => Sys2Proof.Machine.execBegin cfgOk now s
  | .endOp => Sys2Proof.Machine.execEnd s
  | .setTone osc freq => Sys2Proof.Machine.execSetTone osc freq s
  | .setToneAtt osc level => Sys2Proof.Machine.execSetToneAtt osc level s
  | .muteTone osc => Sys2Proof.Machine.execMuteTone osc s
  | .setNoise ntype shift => Sys2Proof.Machine.execSetNoise ntype shift s
  | .setNoiseAtt level => Sys2Proof.Machine.execSetNoiseAtt level s
  | .muteNoise => Sys2Proof.Machine.execMuteNoise s
  | .playNote freq duration cfg index => Sys2Proof.Machine.execPlayNote freq duration cfg index s
  | .reserved9 => Sys2Proof.Machine.execReserved9 s
  | .reserved10 => Sys2Proof.Machine.execReserved10 s
  | .reserved11 => Sys2Proof.Machine.execReserved11 s
  | .reserved12 => Sys2Proof.Machine.execReserved12 s
  | .reserved13 => Sys2Proof.Machine.execReserved13 s
  | .reserved14 => Sys2Proof.Machine.execReserved14 s
  | .reserved15 => Sys2Proof.Machine.execReserved15 s
  | .tick now => Sys2Proof.Machine.execTick now s
  | .toneDivLo osc lo => Sys2Proof.Machine.execToneDivLo osc lo s
  | .toneDivHi hi => Sys2Proof.Machine.execToneDivHi hi s
  | .toneAtt osc level => Sys2Proof.Machine.execToneAtt osc level s
  | .noiseCtl shift ntype => Sys2Proof.Machine.execNoiseCtl shift ntype s
  | .noiseAtt level => Sys2Proof.Machine.execNoiseAtt level s
  | .writeToneRegister osc => Sys2Proof.Machine.execWriteToneRegister osc s
  | .writeNoiseRegister => Sys2Proof.Machine.execWriteNoiseRegister s
  | .writeFrequencyLow lo => Sys2Proof.Machine.execWriteFrequencyLow lo s
  | .writeFrequencyHigh hi => Sys2Proof.Machine.execWriteFrequencyHigh hi s
  | .writeAttenuation level => Sys2Proof.Machine.execWriteAttenuation level s
  | .writeNoiseControl ntype shift => Sys2Proof.Machine.execWriteNoiseControl ntype shift s
  | .latch => Sys2Proof.Machine.execLatch s

end Sys2Proof.Machine
end

