-- ==== Sys2Proof/Machine/Fetch.lean ====
section
/-! DEFINITION. What the sequencer takes next: an internal step it holds, or a request waiting on a port
(10_state.md R34, 45_tick_scheduler.md R201). -/

namespace Sys2Proof.Machine

open Sys2Proof

/-- The sequencer past an internal step; after the last one the operation is complete (R30). -/
def State.pastStep (s : State) (rest : List RawWord) : State :=
  match rest with
  | [] => s.complete
  | w :: ws => { s with seq := .steps w ws }

/-- The command on the port is accepted: the port is free again (R34). -/
def State.takeCmd (s : State) : State := { s with inputs := { s.inputs with cmdPort := none } }

/-- The tick request is acknowledged (R217). -/
def State.takeTick (s : State) : State := { s with inputs := { s.inputs with tickReq := false } }

/-- The request accepted when the sequencer is IDLE: `now` and `cmd_cfg_ok` are sampled at acceptance;
of a waiting command and a waiting tick either may be first (R11, R34, R201). -/
def State.acceptRequest (s : State) : Option (RawWord × State) :=
  let tick := (RawWord.tick s.inputs.now, s.takeTick)
  match s.inputs.cmdPort with
  | some r =>
    if s.inputs.tickReq && s.inputs.tickFirst then some tick
    else some (.cmd r s.inputs.cfgOk s.inputs.now, s.takeCmd)
  | none => if s.inputs.tickReq then some tick else none

/-- The next raw word, with the state in which it is run. While `busy`, no request is accepted (R201).
A position inside an operation is never met between steps (R11; log 1). -/
def State.fetch (s : State) : Option (RawWord × State) :=
  match s.seq with
  | .steps w rest => some (w, s.pastStep rest)
  | .idle => if s.ready then s.acceptRequest else none
  | .inside _ _ => none

/-- A next state passed on to what the environment does then; a stop stays a stop. -/
def arriveAfter (r : Result) : Result :=
  match r with
  | .next s => .next s.arrive
  | .fault f => .fault f
  | .refused e => .refused e

/-- The state whose very next step runs a raw word: a command or a tick alone on its port with the
sampled inputs beside it, or an internal step held by the sequencer (log 12). -/
def State.withRawWord (s : State) (w : RawWord) : State :=
  match w with
  | .cmd r cfgOk now =>
    { s with busy := false, seq := .idle
             inputs := { s.inputs with cmdPort := some r, tickReq := false, cfgOk := cfgOk
                                       now := now } }
  | .tick now =>
    { s with busy := false, seq := .idle
             inputs := { s.inputs with cmdPort := none, tickReq := true, now := now } }
  | .bus b => { s with busy := true, seq := .steps (.bus b) [] }
  | .pin k b => { s with busy := true, seq := .steps (.pin k b) [] }

end Sys2Proof.Machine
end

