-- ==== Sys2Proof/Machine/Step.lean ====
section
/-! DEFINITION. One step of the machine: one operation from acceptance to its end (00_scope.md R11), or one
internal step the sequencer holds, then what the environment does. -/

namespace Sys2Proof.Machine

open Sys2Proof

/-- One step. With nothing to run the CORE is idle and loses no state (R225). -/
def step (s : State) : Host.Outcome State Fault Refusal :=
  match s.fetch with
  | none => .next s.arrive
  | some (w, s') =>
    match decode w with
    | .ok i => arriveAfter (exec i s')
    | .error e => .refused (.undecodable e)

/-- The state whose very next step runs the instruction of a table word (log 11, log 12). -/
def State.withFetchWord (s : State) (nbits w : Nat) : State := s.withRawWord (tableWord nbits w)

end Sys2Proof.Machine
end

