-- ==== Sys2Proof/Machine/ChipImage.lean ====
section
/-! DEFINITION. The chip register image (20_memory.md R58): a function of the bus trace, for observation
only. The CORE keeps no copy (R60). -/

namespace Sys2Proof.Machine

open Sys2Proof

/-- A divisor register of the chip: its two halves are written by two bytes (R56). -/
structure ChipDivisor where
  lo : Option (BitVec 4)
  hi : Option (BitVec 6)
deriving DecidableEq, Repr

/-- The chip's registers; `none` is no value (R58, U8). -/
structure ChipImage where
  div0 : ChipDivisor
  div1 : ChipDivisor
  div2 : ChipDivisor
  att0 : Option Att
  att1 : Option Att
  att2 : Option Att
  nctl : Option (BitVec 3)
  natt : Option Att
  sel  : Option (BitVec 3)
deriving DecidableEq, Repr

/-- A divisor register never written. -/
def ChipDivisor.unwritten : ChipDivisor := { lo := none, hi := none }

/-- Every register unwritten: a model must not assume zero (R58, R241). -/
def ChipImage.unwritten : ChipImage :=
  { div0 := .unwritten, div1 := .unwritten, div2 := .unwritten, att0 := none, att1 := none
    att2 := none, nctl := none, natt := none, sel := none }

/-- `div[i]` (R58). -/
def ChipImage.div (c : ChipImage) (i : Slot) : ChipDivisor :=
  match i with
  | 0 => c.div0
  | 1 => c.div1
  | 2 => c.div2

/-- `div[i] <- r`. -/
def ChipImage.setDiv (c : ChipImage) (i : Slot) (r : ChipDivisor) : ChipImage :=
  match i with
  | 0 => { c with div0 := r }
  | 1 => { c with div1 := r }
  | 2 => { c with div2 := r }

/-- `att[i]` (R58). -/
def ChipImage.att (c : ChipImage) (i : Slot) : Option Att :=
  match i with
  | 0 => c.att0
  | 1 => c.att1
  | 2 => c.att2

/-- `att[i] <- a`. -/
def ChipImage.setAtt (c : ChipImage) (i : Slot) (a : Option Att) : ChipImage :=
  match i with
  | 0 => { c with att0 := a }
  | 1 => { c with att1 := a }
  | 2 => { c with att2 := a }

/-- The divisor a chip register holds, once both halves are written. -/
def ChipDivisor.value (r : ChipDivisor) : Option Div :=
  match r.hi, r.lo with
  | some h, some l => some ((h ++ l).cast (by decide))
  | _, _ => none

/-- The oscillator of a tone divisor register's id `000`, `010`, `100` (R54). -/
def divisorSlot (id : BitVec 3) : Option Slot :=
  if id.getLsbD 0 then none else slotOf (id.extractLsb' 1 2)

/-- A latch byte (bit 7 = 1): the id is selected and its register takes the payload (R58). -/
def ChipImage.latchByte (c : ChipImage) (b : Byte) : ChipImage :=
  let c := { c with sel := some (field b 4 3) }
  match slotOf (field b 5 2) with
  | some i =>
    if field b 4 1 = 0 then c.setDiv i { c.div i with lo := some (field b 0 4) }
    else c.setAtt i (some (field b 0 4))
  | none =>
    if field b 4 1 = 0 then { c with nctl := some (field b 0 3) }
    else { c with natt := some (field b 0 4) }

/-- A data byte (bit 7 = 0): the high six bits of the divisor register selected last. After any other
register R58 has no rule and the CORE never sends one (R57, R79). -/
def ChipImage.dataByte (c : ChipImage) (b : Byte) : ChipImage :=
  match c.sel.bind divisorSlot with
  | some i => c.setDiv i { c.div i with hi := some (field b 0 6) }
  | none => c

/-- The image after one more byte (R58). -/
def ChipImage.byte (c : ChipImage) (b : Byte) : ChipImage :=
  if field b 7 1 = 1 then c.latchByte b else c.dataByte b

/-- The image of a bus trace (R58, R62). -/
def imageOf (trace : List Byte) : ChipImage := trace.foldl ChipImage.byte ChipImage.unwritten

/-- The image once the pulse of `b` was cut short: the register `b` addressed has no value, and after a
latch byte neither has the selection (R214, U9; log 10). -/
def ChipImage.cut (c : ChipImage) (b : Byte) : ChipImage :=
  if field b 7 1 = 1 then
    let c := { c with sel := none }
    match slotOf (field b 5 2) with
    | some i => if field b 4 1 = 0 then c.setDiv i .unwritten else c.setAtt i none
    | none => if field b 4 1 = 0 then { c with nctl := none } else { c with natt := none }
  else
    match c.sel.bind divisorSlot with
    | some i => c.setDiv i .unwritten
    | none => c

/-- What the chip holds, as the bus implies it (R35 (b), R58, R214). -/
def chipImage (s : State) : ChipImage :=
  match s.cutByte with
  | some b => (imageOf s.trace).cut b
  | none => imageOf s.trace

end Sys2Proof.Machine
end

