-- ==== Sys2Proof/Safety.lean ====
section
/-! DEFINITION. What counts as a safe state and a safe run, in the terms the statements use. -/

namespace Sys2Proof.Machine

open Sys2Proof

/-! ## Premises -/

/-- Every coming answer of the pin driver is ok: the named premise of a fault-free run (R212, R215). -/
def State.answersOk (s : State) : Prop := ∀ a ∈ s.inputs.ioFail, a = false

/-- The pins at their idle levels (R33). -/
def State.pinsIdle (s : State) : Prop := s.d = 0 ∧ s.weN = true

/-- The quiescent state: sequencer IDLE, `busy = 0`, pins idle (R14). Every state between two operations
is quiescent. -/
def State.quiescent (s : State) : Prop := s.seq = .idle ∧ s.busy = false ∧ s.pinsIdle

/-! ## What bus writes leave -/

/-- How many of the events the pin driver is asked about. -/
def askedOf (es : List PinEvent) : Nat := es.countP PinEvent.asks

/-- `s` after pin events that all happened, completed the pulses of `bytes` and left the pins idle; inside
an operation the sequencer is past them (R30); nothing else differs. -/
def State.wrote (s : State) (bytes : List Byte) (es : List PinEvent) : State :=
  { s with d := 0, weN := true, trace := s.trace ++ bytes, pinLog := s.pinLog ++ es
           seq := s.seq.after es
           inputs := { s.inputs with ioFail := s.inputs.ioFail.drop (askedOf es) } }

/-- The two bytes of a divisor write, low part first (R56, R120). -/
def divisorBytes (osc : Osc) (n : Div) : List Byte :=
  [toneDivLoByte osc (divLo n), toneDivHiByte (divHi n)]

/-- The five bytes of a processed voice (R193). -/
def voiceBytes (osc : Osc) (n n2 : Div) (level : Att) : List Byte :=
  divisorBytes osc n ++ divisorBytes osc n2 ++ [toneAttByte osc level]

/-- The lists of pin events an operation drives: whole transactions (R110, R120 to R126), or the two drives
of BEGIN and END, which are no BusWrite (R197, R198). -/
inductive Transaction (p : Config.Params) : List PinEvent → Prop where
  | divisor (i : Slot) (n : Div) : Transaction p (divisorEvents p (oscOf i) n)
  | toneAtt (i : Slot) (level : Att) : Transaction p (toneAttEvents p (oscOf i) level)
  | noiseCtl (ntype : BitVec 1) (shift : BitVec 2) : Transaction p (noiseCtlEvents p ntype shift)
  | noiseAtt (level : Att) : Transaction p (noiseAttEvents p level)
  | idle : Transaction p idleEvents

/-- Everything but the pins, the trace, the pin log and the driver's answers is the same. -/
def sameOffBus (s t : State) : Prop :=
  t.params = s.params ∧ t.voices = s.voices ∧ t.noisePlaying = s.noisePlaying ∧
  t.lastTick = s.lastTick ∧ t.started = s.started ∧
  t.inputs.cmdPort = s.inputs.cmdPort ∧ t.inputs.tickReq = s.inputs.tickReq ∧
  t.inputs.now = s.inputs.now ∧ t.inputs.cfgOk = s.inputs.cfgOk ∧
  t.inputs.tickFirst = s.inputs.tickFirst ∧ t.inputs.script = s.inputs.script

/-- The flags and the cut byte are the same. -/
def sameFlags (s t : State) : Prop :=
  t.busy = s.busy ∧ t.fault = s.fault ∧ t.faultCause = s.faultCause ∧
  t.cutByte = s.cutByte

/-! ## What a tick does -/

/-- The slots a tick processes, in order, read off the `playing` flags before it: under EARLY_STOP those
before the first idle one, otherwise all playing ones (R192, R194). -/
def processedSlots (s : State) : List Slot :=
  if s.params.earlyStop then ([0, 1, 2] : List Slot).takeWhile fun i => (s.voice i).playing
  else ([0, 1, 2] : List Slot).filter fun i => (s.voice i).playing

/-- The bytes a tick writes for a processed voice: the divisor twice, then the attenuation, all computed
from the voice as aged by `dt` (R193). -/
def processedBytes (s : State) (dt : Time) (i : Slot) : List Byte :=
  let v := agedVoice dt (s.voice i)
  voiceBytes (oscOf i) (vibratoDivisor s.params.masterClockHz v)
    (tremoloDivisor s.params.masterClockHz v) (envelopeLevel dt v)

/-! ## Groups of instructions -/

/-- The operations: the commands and the tick (R18). The others are steps inside an operation. -/
def isOperation : Instr → Bool
  | .beginOp _ _ | .endOp | .setTone _ _ | .setToneAtt _ _ | .muteTone _ | .setNoise _ _
  | .setNoiseAtt _ | .muteNoise | .playNote _ _ _ _ | .reserved9 | .reserved10 | .reserved11
  | .reserved12 | .reserved13 | .reserved14 | .reserved15 | .tick _ => true
  | .toneDivLo _ _ | .toneDivHi _ | .toneAtt _ _ | .noiseCtl _ _ | .noiseAtt _
  | .writeToneRegister _ | .writeNoiseRegister | .writeFrequencyLow _ | .writeFrequencyHigh _
  | .writeAttenuation _ | .writeNoiseControl _ _ | .latch => false

/-- The seven reserved op codes (R83 (a)). -/
def isReserved : Instr → Bool
  | .reserved9 | .reserved10 | .reserved11 | .reserved12 | .reserved13 | .reserved14
  | .reserved15 => true
  | .beginOp _ _ | .endOp | .setTone _ _ | .setToneAtt _ _ | .muteTone _ | .setNoise _ _
  | .setNoiseAtt _ | .muteNoise | .playNote _ _ _ _ | .tick _
  | .toneDivLo _ _ | .toneDivHi _ | .toneAtt _ _ | .noiseCtl _ _ | .noiseAtt _
  | .writeToneRegister _ | .writeNoiseRegister | .writeFrequencyLow _ | .writeFrequencyHigh _
  | .writeAttenuation _ | .writeNoiseControl _ _ | .latch => false

/-- BEGIN. -/
def isBegin : Instr → Bool
  | .beginOp _ _ => true
  | .endOp | .setTone _ _ | .setToneAtt _ _ | .muteTone _ | .setNoise _ _
  | .setNoiseAtt _ | .muteNoise | .playNote _ _ _ _ | .reserved9 | .reserved10 | .reserved11
  | .reserved12 | .reserved13 | .reserved14 | .reserved15 | .tick _
  | .toneDivLo _ _ | .toneDivHi _ | .toneAtt _ _ | .noiseCtl _ _ | .noiseAtt _
  | .writeToneRegister _ | .writeNoiseRegister | .writeFrequencyLow _ | .writeFrequencyHigh _
  | .writeAttenuation _ | .writeNoiseControl _ _ | .latch => false

/-- PLAY_NOTE. -/
def isPlayNote : Instr → Bool
  | .playNote _ _ _ _ => true
  | .beginOp _ _ | .endOp | .setTone _ _ | .setToneAtt _ _ | .muteTone _ | .setNoise _ _
  | .setNoiseAtt _ | .muteNoise | .reserved9 | .reserved10 | .reserved11
  | .reserved12 | .reserved13 | .reserved14 | .reserved15 | .tick _
  | .toneDivLo _ _ | .toneDivHi _ | .toneAtt _ _ | .noiseCtl _ _ | .noiseAtt _
  | .writeToneRegister _ | .writeNoiseRegister | .writeFrequencyLow _ | .writeFrequencyHigh _
  | .writeAttenuation _ | .writeNoiseControl _ _ | .latch => false

/-- The instructions that R37 gives no access to the voices, the noise slot, `lastTickTimestamp` or
`started`: the six direct writes, the reserved op codes, the bus words and the pin steps. -/
def isBusOnly (i : Instr) : Bool :=
  match i with
  | .beginOp _ _ | .endOp | .playNote _ _ _ _ | .tick _ => false
  | .setTone _ _ | .setToneAtt _ _ | .muteTone _ | .setNoise _ _ | .setNoiseAtt _ | .muteNoise
  | .reserved9 | .reserved10 | .reserved11 | .reserved12 | .reserved13 | .reserved14 | .reserved15
  | .toneDivLo _ _ | .toneDivHi _ | .toneAtt _ _ | .noiseCtl _ _ | .noiseAtt _
  | .writeToneRegister _ | .writeNoiseRegister | .writeFrequencyLow _ | .writeFrequencyHigh _
  | .writeAttenuation _ | .writeNoiseControl _ _ | .latch => true

/-! ## The grammar of the bus trace (R77 to R79) -/

/-- Reads a trace byte by byte. The flag says that a TONE_DIV_LO waits for its TONE_DIV_HI; `none` is a
sequence the CORE never emits (R78, R79). -/
def scanTrace : Bool → List Byte → Option Bool
  | pending, [] => some pending
  | pending, b :: bs =>
    match decodeBus b with
    | .ok (.toneDivHi _) => if pending then scanTrace false bs else none
    | .ok (.toneDivLo _ _) => if pending then none else scanTrace true bs
    | .ok _ => if pending then none else scanTrace false bs
    | .error _ => none

/-- The trace is one the CORE may emit: a TONE_DIV_LO is left without its TONE_DIV_HI only where a
BusIOError cut the operation (R79). -/
def State.traceOk (s : State) : Prop :=
  scanTrace false s.trace = some false ∨ (scanTrace false s.trace = some true ∧ s.fault = true)

/-! ## The discipline of the write pulse (R243 to R245) -/

/-- Where a pulse stands: `WE_n` high, just low, or low for the pulse time. -/
inductive Pulse where
  | high | fallen | held
deriving DecidableEq, Repr

/-- One event of a well-made pulse of width `t`: data pins move only while `WE_n` is high (R243), and
between a falling and a rising edge the pulse time is waited once (R245). -/
def Pulse.next (t : Rat) (p : Pulse) (e : PinEvent) : Option Pulse :=
  match p, e with
  | .high, .data _ _ _ => some .high
  | .high, .weN true => some .high
  | .high, .weN false => some .fallen
  | .fallen, .wait u => if u = t then some .held else none
  | .held, .weN true => some .high
  | .high, .wait _ => none
  | .fallen, .data _ _ _ => none
  | .fallen, .weN _ => none
  | .held, .data _ _ _ => none
  | .held, .wait _ => none
  | .held, .weN false => none

/-- Reads a pin log event by event; `none` is a protocol violation. -/
def scanPulses (t : Rat) : Pulse → List PinEvent → Option Pulse
  | p, [] => some p
  | p, e :: es => (p.next t e).bind fun q => scanPulses t q es

/-- Every pulse since reset was well made, and none is open. -/
def State.pulsesOk (s : State) : Prop := scanPulses (writeTime s.params) .high s.pinLog = some .high

/-! ## The sequencer (R30) -/

/-- The order of R117's steps within one transaction. -/
def BusStep.order : BusStep → Nat × Nat
  | .present k => (0, k)
  | .lowered => (1, 0)
  | .held => (2, 0)
  | .raised => (3, 0)

/-- `p` comes before `q` in the list of R117, transaction by transaction. -/
def BusPos.before (p q : BusPos) : Prop :=
  p.complete < q.complete ∨
  (p.complete = q.complete ∧
    (p.step.order.1 < q.step.order.1 ∨
      (p.step.order.1 = q.step.order.1 ∧ p.step.order.2 < q.step.order.2)))

/-! ## Voices -/

/-- The sum of the four counters (R26 (b)). -/
def PhaseCounters.total (p : PhaseCounters) : Nat :=
  p.attackLeft.toNat + p.decayLeft.toNat + p.sustainLeft.toNat + p.releaseLeft.toNat

/-- The sum of the three pre-release counters (R26 (a)). -/
def PhaseCounters.preRelease (p : PhaseCounters) : Nat :=
  p.attackLeft.toNat + p.decayLeft.toNat + p.sustainLeft.toNat

/-- No counter of a playing voice is above the phase length its formula divides by (R153, R154, R156). -/
def Voice.countersOk (v : Voice) : Prop :=
  v.playing = true →
    v.phase.attackLeft.toNat ≤ v.config.envelope.attack.toNat ∧
    v.phase.decayLeft.toNat ≤ v.config.envelope.decay.toNat ∧
    v.phase.releaseLeft.toNat ≤ v.config.envelope.release.toNat

/-- The `elapsedTime` of a playing voice is more than one tick away from its width's end: with time left
on the counters the two together are at most two full times, and always at most three (R203, D25). -/
def Voice.elapsedOk (v : Voice) : Prop :=
  v.playing = true →
    (0 < v.phase.total → v.elapsedTime.toNat + v.phase.total ≤ 2 * (2 ^ 32 - 1)) ∧
    v.elapsedTime.toNat + v.phase.total ≤ 3 * (2 ^ 32 - 1)

/-- Every voice slot keeps its bounds. In the fault state a voice may be aged and not yet consumed, and no
tick will age it again, so the second bound is not asked there. -/
def State.voicesOk (s : State) : Prop :=
  ∀ i : Slot, (s.voice i).countersOk ∧ (s.fault = false → (s.voice i).elapsedOk)

/-! ## Flags -/

/-- The flags agree: a fault has a cause and no fault has none (R211); a pulse was cut only by a fault
(R214); the noise slot is never driven (R28). -/
def State.flagsOk (s : State) : Prop :=
  (s.fault = true ↔ s.faultCause ≠ .none) ∧ (s.cutByte ≠ none → s.fault = true) ∧
  s.noisePlaying = false

/-- The next frame of the environment does not assert reset. -/
def State.noResetNext (s : State) : Prop := ∀ f ∈ s.inputs.script.head?, f.reset = false

end Sys2Proof.Machine
end

