-- ==== Sys2Proof/Certificates/Slice0/Obligations.lean ====
section
/-! DEFINITION. The statements for the provers. -/

open Sys2Proof Sys2Proof.Machine

/-! ## Encoding (30_encoding.md) -/

/-- Decoding an encoded well-formed instruction gives it back, with every operand (R70 to R87). -/
def Obligations.EncodedInstructionDecodesBack : Prop :=
  ∀ i : Instr, i.wellFormed = true → decode (encode i) = .ok i

/-- A bus byte the decoder accepts is the encoding of what it decodes to, and that is well formed. -/
def Obligations.DecodedBusByteEncodesBack : Prop :=
  ∀ (b : Byte) (i : Instr), decode (.bus b) = .ok i → encode i = .bus b ∧ i.wellFormed = true

/-- The five bus words by their mask and match (R77), and every other byte is refused by its name
(R78). -/
def Obligations.BusByteClasses : Prop :=
  ∀ b : Byte,
    (b &&& 0x90 = 0x80 → field b 5 2 ≠ 3 → decode (.bus b) = .ok (.toneDivLo (field b 5 2) (field b 0 4))) ∧
    (b &&& 0x90 = 0x90 → field b 5 2 ≠ 3 → decode (.bus b) = .ok (.toneAtt (field b 5 2) (field b 0 4))) ∧
    (b &&& 0xF8 = 0xE0 → decode (.bus b) = .ok (.noiseCtl (field b 1 2) (field b 0 1))) ∧
    (b &&& 0xF0 = 0xF0 → decode (.bus b) = .ok (.noiseAtt (field b 0 4))) ∧
    (b &&& 0xC0 = 0x00 → decode (.bus b) = .ok (.toneDivHi (field b 0 6))) ∧
    (b &&& 0xC0 = 0x40 → decode (.bus b) = .error .dataByteBit6) ∧
    (b &&& 0xF8 = 0xE8 → decode (.bus b) = .error .noiseControlBit3)

/-- Words of each format, written out from the spec's encodings, decode to their instructions (R77, R81,
R87, R111, R116). -/
def Obligations.SampleWordsDecode : Prop :=
  decode (.bus 0b10001100) = .ok (.toneDivLo 0 0b1100) ∧
  decode (.bus 0b00010001) = .ok (.toneDivHi 0b010001) ∧
  decode (.bus 0b10110100) = .ok (.toneAtt 1 4) ∧
  decode (.bus 0b11100101) = .ok (.noiseCtl 2 1) ∧
  decode (.bus 0b11110111) = .ok (.noiseAtt 7) ∧
  decode (.cmd { CmdRecord.ofOp 3 with osc := 2, level := 15 } true 9) = .ok (.setToneAtt 2 15) ∧
  decode (.cmd (CmdRecord.ofOp 0) true 9) = .ok (.beginOp true 9) ∧
  decode (.tick 0xFFFFFFFE) = .ok (.tick 0xFFFFFFFE) ∧
  decode (.pin .toneRegister 0b11001010) = .ok (.writeToneRegister 2) ∧
  decode (.pin .latch 0b01011010) = .ok .latch

/-! ## The Frequency Quantizer (40_quantizer.md) -/

/-- The rounded quotient is between 1 and 1023, so the mask changes nothing, and both ends are reached
exactly (R101). -/
def Obligations.QuantizerStaysInRange : Prop :=
  ∀ (clock : ℕ+) (f : Freq),
    1 ≤ (quantize clock f).toNat ∧ (quantize clock f).toNat ≤ 1023 ∧
    ((quantize clock f).toNat : ℤ) =
      (((clock : ℕ) : Rat) / (32 * clampFreq clock f) + 1 / 2).floor ∧
    quantize clock (minFreq clock) = 1023 ∧ quantize clock (maxFreq clock) = 1 ∧
    (f ≤ minFreq clock → quantize clock f = 1023) ∧ (maxFreq clock ≤ f → quantize clock f = 1)

/-- A higher frequency never has a larger divisor (R102). -/
def Obligations.QuantizerIsMonotone : Prop :=
  ∀ (clock : ℕ+) (f g : Freq), f ≤ g → (quantize clock g).toNat ≤ (quantize clock f).toNat

/-- The quantizer in integer arithmetic: for a frequency `a / b` in range it is the division
`(2 * M * b + 32 * a) div (64 * a)` (from R100). -/
def Obligations.QuantizerInIntegers : Prop :=
  ∀ (clock : ℕ+) (a b : ℕ), 0 < a → 0 < b →
    minFreq clock ≤ (a : Rat) / (b : Rat) → (a : Rat) / (b : Rat) ≤ maxFreq clock →
    (quantize clock ((a : Rat) / (b : Rat))).toNat = (2 * (clock : ℕ) * b + 32 * a) / (64 * a)

/-- Zero and negative frequencies give 1023, a tie `k + 1/2` rounds up (R103 (a), (c)). -/
def Obligations.QuantizerCorners : Prop :=
  ∀ clock : ℕ+,
    (∀ f : Freq, f ≤ 0 → quantize clock f = 1023) ∧
    (∀ k : ℕ, 1 ≤ k → k ≤ 1022 →
      (quantize clock (((clock : ℕ) : Rat) / (16 * (2 * (k : Rat) + 1)))).toNat = k + 1)

/-- A divisor is the quantization of the frequency it stands for (R104). -/
def Obligations.QuantizerInvertsDivisor : Prop :=
  ∀ (clock : ℕ+) (n : ℕ), 1 ≤ n → n ≤ 1023 →
    (quantize clock (((clock : ℕ) : Rat) / (32 * (n : Rat)))).toNat = n

/-! ## Direct writes (41_register_write_protocol.md) -/

/-- SET_TONE writes the two bytes of the quantized frequency, low part first, and changes nothing off the
bus (R120, R121, R128). -/
def Obligations.SetToneWritesDivisor : Prop :=
  ∀ (s : State) (osc : Osc) (f : Freq),
    s.running = true → s.answersOk → s.pinsIdle → osc ≠ 3 →
    exec (.setTone osc f) s =
      .next (s.wrote (divisorBytes osc (quantize s.params.masterClockHz f))
        (divisorEvents s.params osc (quantize s.params.masterClockHz f))).complete

/-- SET_TONE_ATT writes the one byte `1 oo 1 aaaa`; MUTE_TONE writes it with level 15 (R86, R122, R123,
R128). -/
def Obligations.ToneAttenuationWrites : Prop :=
  ∀ (s : State) (osc : Osc) (level : Att),
    s.running = true → s.answersOk → s.pinsIdle → osc ≠ 3 →
    exec (.setToneAtt osc level) s =
      .next (s.wrote [toneAttByte osc level] (toneAttEvents s.params osc level)).complete ∧
    exec (.muteTone osc) s =
      .next (s.wrote [toneAttByte osc 15] (toneAttEvents s.params osc 15)).complete

/-- SET_NOISE writes `1 11 0 0 ss t`, SET_NOISE_ATT writes `1 11 1 aaaa`, MUTE_NOISE writes `0xFF`
(R124, R125, R126, R128). -/
def Obligations.NoiseWrites : Prop :=
  ∀ (s : State) (ntype : BitVec 1) (shift : BitVec 2) (level : Att),
    s.running = true → s.answersOk → s.pinsIdle →
    exec (.setNoise ntype shift) s =
      .next (s.wrote [noiseCtlByte shift ntype] (noiseCtlEvents s.params ntype shift)).complete ∧
    exec (.setNoiseAtt level) s =
      .next (s.wrote [noiseAttByte level] (noiseAttEvents s.params level)).complete ∧
    exec .muteNoise s = .next (s.wrote [0xFF] (noiseAttEvents s.params 15)).complete

/-- After MUTE_TONE the chip image holds attenuation 15 for that oscillator whatever it held before, and
every other register of the image but the selection is as it was (R58, R123). -/
def Obligations.MuteToneSilencesTheImage : Prop :=
  ∀ (s : State) (i : Slot),
    s.running = true → s.answersOk → s.pinsIdle → s.cutByte = none →
    ∃ t, exec (.muteTone (oscOf i)) s = .next t ∧
      (chipImage t).att i = some 15 ∧ (chipImage t).sel = some (field (toneAttByte (oscOf i) 15) 4 3) ∧
      (∀ j, j ≠ i → (chipImage t).att j = (chipImage s).att j) ∧
      (∀ j, (chipImage t).div j = (chipImage s).div j) ∧
      (chipImage t).nctl = (chipImage s).nctl ∧ (chipImage t).natt = (chipImage s).natt

/-- SET_TONE leaves the quantized divisor in the chip image, both halves (R56, R58, R121). -/
def Obligations.SetToneReachesTheImage : Prop :=
  ∀ (s : State) (i : Slot) (f : Freq),
    s.running = true → s.answersOk → s.pinsIdle → s.cutByte = none →
    ∃ t, exec (.setTone (oscOf i) f) s = .next t ∧
      ((chipImage t).div i).value = some (quantize s.params.masterClockHz f) ∧
      (∀ j, j ≠ i → (chipImage t).div j = (chipImage s).div j) ∧
      (∀ j, (chipImage t).att j = (chipImage s).att j)

/-- The reserved commands: op codes 9 to 15, and oscillator field 3 in SET_TONE, SET_TONE_ATT and
MUTE_TONE, are accepted and have no effect; in PLAY_NOTE the field value 3 is automatic allocation (R83). -/
def Obligations.ReservedCommandsHaveNoEffect : Prop :=
  (∀ (r : CmdRecord) (cfgOk : Bool) (now : Time), 9 ≤ r.op.toNat →
    ∃ i, decode (.cmd r cfgOk now) = .ok i ∧ isReserved i = true) ∧
  (∀ (i : Instr) (s : State), isReserved i = true → exec i s = .next s) ∧
  (∀ (s : State) (f : Freq) (level : Att),
    exec (.setTone 3 f) s = .next s ∧ exec (.setToneAtt 3 level) s = .next s ∧
    exec (.muteTone 3) s = .next s) ∧
  (∀ (s : State) (f : Freq) (duration : Time) (cfg : VoiceConfig),
    s.running = true → (s.voice 0).playing = false →
    ∃ t, exec (.playNote f duration cfg 3) s = .next t ∧ (t.voice 0).playing = true)

/-- Outside the running state an operation has no effect: while faulted none has, while stopped only
BEGIN has (R199, R215). -/
def Obligations.OperationsOutsideRunning : Prop :=
  ∀ (i : Instr) (s : State), isOperation i = true →
    (s.fault = true → exec i s = .next s) ∧
    (s.fault = false → s.started = false → isBegin i = false → exec i s = .next s)

/-! ## Internal steps (R52, R77, R111 to R118) -/

/-- Each bus word is one BusWrite of its byte: from idle pins it pulses that byte, and leaves everything
off the bus as it was (R52, R77). -/
def Obligations.BusWordsWriteTheirByte : Prop :=
  ∀ (s : State) (osc : Osc) (lo level : BitVec 4) (hi : BitVec 6) (shift : BitVec 2)
    (ntype : BitVec 1),
    s.answersOk → s.pinsIdle →
    (osc ≠ 3 → exec (.toneDivLo osc lo) s =
      .next (s.wrote [toneDivLoByte osc lo] (toneDivLoEvents s.params osc lo))) ∧
    exec (.toneDivHi hi) s = .next (s.wrote [toneDivHiByte hi] (toneDivHiEvents s.params hi)) ∧
    (osc ≠ 3 → exec (.toneAtt osc level) s =
      .next (s.wrote [toneAttByte osc level] (toneAttEvents s.params osc level))) ∧
    exec (.noiseCtl shift ntype) s =
      .next (s.wrote [noiseCtlByte shift ntype] (noiseCtlEvents s.params ntype shift)) ∧
    exec (.noiseAtt level) s = .next (s.wrote [noiseAttByte level] (noiseAttEvents s.params level))

/-- Each pin step drives exactly its own pins, from any levels, pulses nothing and leaves the trace, the
flags and everything off the bus as it was; inside an operation the sequencer moves past its events, which
join the pin log (R111 to R115, R118, R30). -/
def Obligations.PinStepsDriveTheirPins : Prop :=
  ∀ (s : State) (osc : Osc) (lo level : BitVec 4) (hi : BitVec 6) (shift : BitVec 2)
    (ntype : BitVec 1),
    s.answersOk →
    let drives := fun (i : Instr) (d : Byte) (es : List PinEvent) =>
      ∃ t, exec i s = .next t ∧ t.d = d ∧ t.weN = s.weN ∧ t.trace = s.trace ∧
        t.pinLog = s.pinLog ++ es ∧ t.seq = s.seq.after es ∧ sameOffBus s t ∧ sameFlags s t
    (osc ≠ 3 → drives (.writeToneRegister osc) (1#1 ++ osc ++ 0#1 ++ s.d.extractLsb' 0 4)
      (toneRegisterEvents osc)) ∧
    drives .writeNoiseRegister (0b1110#4 ++ s.d.extractLsb' 0 4) noiseRegisterEvents ∧
    drives (.writeFrequencyLow lo) (1#1 ++ s.d.extractLsb' 4 3 ++ lo) (frequencyLowEvents lo) ∧
    drives (.writeFrequencyHigh hi) (0#1 ++ s.d.extractLsb' 6 1 ++ hi)
      (frequencyHighEvents hi) ∧
    drives (.writeAttenuation level) (s.d.extractLsb' 5 3 ++ 1#1 ++ level)
      (attenuationEvents level) ∧
    drives (.writeNoiseControl ntype shift) (s.d.extractLsb' 3 5 ++ shift ++ ntype)
      (noiseControlEvents ntype shift)

/-- `latch()` pulses the byte on the pins, whatever it is, then zeroes them: `WE_n` low, a wait of
WRITE_TIME, `WE_n` high, `D` zero, and the byte joins the trace (R116). -/
def Obligations.LatchPulsesTheByte : Prop :=
  ∀ s : State, s.answersOk →
    exec .latch s =
      .next (s.wrote [s.d] [.weN false, .wait (writeTime s.params), .weN true, .data 7 0 0])

/-- An internal step of a tone word with oscillator field 3 is refused by name (R77, R111; log 13). -/
def Obligations.ToneStepsRefuseOscillatorThree : Prop :=
  ∀ (s : State) (lo level : BitVec 4),
    exec (.toneDivLo 3 lo) s = .refused .oscillatorOutOfRange ∧
    exec (.toneAtt 3 level) s = .refused .oscillatorOutOfRange ∧
    exec (.writeToneRegister 3) s = .refused .oscillatorOutOfRange

/-- A pulse of `pulseClocks` cycles of the block's clock lasts at least WRITE_TIME (R127). -/
def Obligations.PulseClocksCoverWriteTime : Prop :=
  ∀ (p : Config.Params) (clk : ℕ+),
    writeTime p ≤ (pulseClocks p clk : Rat) / ((clk : ℕ) : Rat) ∧ 1 ≤ pulseClocks p clk

/-! ## Faults (60_exceptions.md) -/

/-- A pin failure in an attenuation write, at whichever of its eight pin events: the fault state is
entered, the pins are idle, the byte is in the trace only if the failing event is the last one, and the
pulse was cut exactly if it is the rising edge (R214, R219, R246). That the pins are idle even where a
clean-up drive fails too is the model's reading of R119, R14 and R246 (log 7), and `cutByte` is the model's
own field (log 10). -/
def Obligations.PinFailureEntersTheFaultState : Prop :=
  ∀ (s : State) (osc : Osc) (level : Att) (k : ℕ) (rest : List Bool),
    s.running = true → s.pinsIdle → osc ≠ 3 → k < 8 →
    s.inputs.ioFail = List.replicate k false ++ true :: rest →
    ∃ t, exec (.setToneAtt osc level) s = .next t ∧
      t.fault = true ∧ t.faultCause = .busIOError ∧ t.busy = false ∧ t.seq = .idle ∧ t.pinsIdle ∧
      t.trace = (if k = 7 then s.trace ++ [toneAttByte osc level] else s.trace) ∧
      t.cutByte = (if k = 6 then some (toneAttByte osc level) else s.cutByte) ∧
      sameOffBus s t

/-- SET_TONE_ATT whose pulse a pin failure cut at its rising edge: that oscillator's attenuation has no
value in the chip image and every other register is as it was (R214; the image's means, log 10). -/
def Obligations.CutPulseLeavesNoValue : Prop :=
  ∀ (s : State) (i : Slot) (level : Att) (rest : List Bool),
    s.running = true → s.pinsIdle → s.cutByte = none →
    s.inputs.ioFail = List.replicate 6 false ++ true :: rest →
    ∃ t, exec (.setToneAtt (oscOf i) level) s = .next t ∧
      (chipImage t).att i = none ∧
      (∀ j, j ≠ i → (chipImage t).att j = (chipImage s).att j) ∧
      (∀ j, (chipImage t).div j = (chipImage s).div j) ∧
      (chipImage t).nctl = (chipImage s).nctl ∧ (chipImage t).natt = (chipImage s).natt

/-- The other writes whose pulse a pin failure cut at its rising edge, in the chip image (R214). MUTE_TONE:
as SET_TONE_ATT. SET_TONE, at its low byte or at its high byte: that oscillator's divisor has no value.
SET_NOISE: the noise control has none. SET_NOISE_ATT and MUTE_NOISE: the noise attenuation has none. Every
other register is as it was. That a cut latch byte leaves the selection without a value, and a cut data
byte the whole divisor, is the model's choice (log 10). -/
def Obligations.CutPulseInTheOtherWrites : Prop :=
  ∀ (s : State) (i : Slot) (f : Freq) (ntype : BitVec 1) (shift : BitVec 2) (level : Att)
    (rest : List Bool),
    s.running = true → s.pinsIdle → s.cutByte = none →
    let cutAt := fun k => s.inputs.ioFail = List.replicate k false ++ true :: rest
    let image := chipImage s
    (cutAt 6 →
      (∃ t, exec (.muteTone (oscOf i)) s = .next t ∧
        chipImage t = { image.setAtt i none with sel := none }) ∧
      (∃ t, exec (.setTone (oscOf i) f) s = .next t ∧
        chipImage t = { image.setDiv i .unwritten with sel := none })) ∧
    (cutAt 11 →
      ∃ t, exec (.setTone (oscOf i) f) s = .next t ∧
        chipImage t = { image.setDiv i .unwritten with sel := some (oscOf i ++ 0#1) }) ∧
    (cutAt 4 →
      (∃ t, exec (.setNoise ntype shift) s = .next t ∧
        chipImage t = { image with nctl := none, sel := none }) ∧
      (∃ t, exec (.setNoiseAtt level) s = .next t ∧
        chipImage t = { image with natt := none, sel := none }) ∧
      (∃ t, exec .muteNoise s = .next t ∧
        chipImage t = { image with natt := none, sel := none }))

/-- The fault state is entered for two causes only: a BEGIN whose pin configuration failed, or a failing
answer of the pin driver to an instruction other than PLAY_NOTE, and then the pins are idle; no operand
value and no state raises anything (R211, R213, R214, R246). That the pins are idle even where a clean-up
drive fails too is the model's reading of R119, R14 and R246 (log 7). -/
def Obligations.FaultsComeFromTheirCauses : Prop :=
  ∀ (i : Instr) (s t : State), s.fault = false → exec i s = .next t → t.fault = true →
    (t.faultCause = .configError ∧ ∃ now, i = .beginOp false now) ∨
    (t.faultCause = .busIOError ∧ true ∈ s.inputs.ioFail ∧ isPlayNote i = false ∧ t.pinsIdle ∧
      t.busy = false ∧ t.seq = .idle)

/-- BEGIN with a failed pin configuration enters the fault state with cause ConfigError and changes no
voice, no pin, no trace and not `started` (R213; for a BEGIN while started, log 9). -/
def Obligations.ConfigErrorAtBegin : Prop :=
  ∀ (s : State) (now : Time), s.fault = false →
    exec (.beginOp false now) s =
      .next { s with fault := true, faultCause := .configError, busy := false, seq := .idle }

/-- BEGIN puts every voice and the noise slot at the reset values, samples `now`, drives the pins idle
without a pulse and sets `started` (R36, R197). -/
def Obligations.BeginInitialises : Prop :=
  ∀ (s : State) (now : Time), s.fault = false → s.answersOk → s.pinsIdle →
    exec (.beginOp true now) s =
      .next { s with
        voices := Voices.zero, noisePlaying := false, lastTick := now, started := true
        busy := false, seq := .idle, pinLog := s.pinLog ++ [.data 7 0 0, .weN true]
        inputs := { s.inputs with ioFail := s.inputs.ioFail.drop 2 } }

/-- END puts every voice and the noise slot at the reset values, drives the pins idle without a pulse,
clears `started` and leaves `lastTickTimestamp` as it is (R198). -/
def Obligations.EndTearsDown : Prop :=
  ∀ s : State, s.running = true → s.answersOk → s.pinsIdle →
    exec .endOp s =
      .next { s with
        voices := Voices.zero, noisePlaying := false, started := false
        busy := false, seq := .idle, pinLog := s.pinLog ++ [.data 7 0 0, .weN true]
        inputs := { s.inputs with ioFail := s.inputs.ioFail.drop 2 } }

/-- A pin failure in BEGIN or END leaves `started` as it was; the voices were already cleared (R197, R198,
R214; log 9). -/
def Obligations.PinFailureInLifecycle : Prop :=
  ∀ (s : State) (now : Time) (k : ℕ) (rest : List Bool),
    s.fault = false → s.pinsIdle → k < 2 →
    s.inputs.ioFail = List.replicate k false ++ true :: rest →
    (∃ t, exec (.beginOp true now) s = .next t ∧ t.fault = true ∧ t.faultCause = .busIOError ∧
      t.started = s.started ∧ t.voices = Voices.zero ∧ t.lastTick = now ∧ t.trace = s.trace ∧
      t.cutByte = s.cutByte ∧ t.quiescent) ∧
    (s.started = true →
      ∃ t, exec .endOp s = .next t ∧ t.fault = true ∧ t.faultCause = .busIOError ∧
        t.started = true ∧ t.voices = Voices.zero ∧ t.lastTick = s.lastTick ∧ t.trace = s.trace ∧
        t.cutByte = s.cutByte ∧ t.quiescent)

/-- In the fault state a step changes nothing but the inputs, unless the environment asserts reset, which
leaves it (R215, R220). -/
def Obligations.FaultStateIsSticky : Prop :=
  ∀ s : State, s.quiescent → s.fault = true →
    ∃ t, step s = .next t ∧
      (s.noResetNext → t = { s with inputs := t.inputs }) ∧
      (∀ f rest, s.inputs.script = f :: rest → f.reset = true → t.fault = false)

/-- A reset that lands puts the CORE's whole state at the reset values, whatever the step did (R36, R240). -/
def Obligations.ResetRestoresEverything : Prop :=
  ∀ (s t : State) (f : EnvFrame) (rest : List EnvFrame),
    s.inputs.script = f :: rest → f.reset = true → step s = .next t →
    t = { State.reset with params := s.params, inputs := t.inputs }

/-! ## Voice allocation (42_voice_allocation.md) -/

/-- PLAY_NOTE: an explicit index takes that voice whatever it holds, the automatic index the first idle
voice, and with none the note is dropped, no voice is written and the operation is complete; the voice gets
the config whole, the split duration, elapsed time 0, the frequency as given, playing; nothing else changes
and no pin moves (R141, R143, R144). -/
def Obligations.PlayNoteTakesItsVoice : Prop :=
  ∀ (s : State) (f : Freq) (duration : Time) (cfg : VoiceConfig), s.running = true →
    let v : Voice := { config := cfg, phase := splitDuration duration cfg.envelope
                       baseFrequency := f, elapsedTime := 0, playing := true }
    (∀ i, exec (.playNote f duration cfg (oscOf i)) s = .next (s.setVoice i v).complete) ∧
    (∀ i, (s.voice i).playing = false → (∀ j, j < i → (s.voice j).playing = true) →
      exec (.playNote f duration cfg 3) s = .next (s.setVoice i v).complete) ∧
    ((∀ i, (s.voice i).playing = true) → exec (.playNote f duration cfg 3) s = .next s.complete)

/-- The duration split: attack and decay take what they may of what is left, sustain takes the rest,
release is the config's; the three pre-release counters sum to the duration (R142). -/
def Obligations.DurationSplitsInOrder : Prop :=
  ∀ (duration : Time) (env : EnvelopeConfig),
    let p := splitDuration duration env
    p.attackLeft.toNat = min env.attack.toNat duration.toNat ∧
    p.decayLeft.toNat = min env.decay.toNat (duration.toNat - p.attackLeft.toNat) ∧
    p.sustainLeft.toNat = duration.toNat - p.attackLeft.toNat - p.decayLeft.toNat ∧
    p.releaseLeft = env.release ∧ p.preRelease = duration.toNat

/-- From three idle voices, three automatic PLAY_NOTEs take voices 0, 1 and 2, and a fourth changes
nothing (R146). -/
def Obligations.ThreeNotesFillThreeVoices : Prop :=
  ∀ (s : State) (f : Freq) (duration : Time) (cfg : VoiceConfig),
    s.running = true → (∀ i, (s.voice i).playing = false) →
    ∃ t1 t2 t3, exec (.playNote f duration cfg 3) s = .next t1 ∧
      exec (.playNote f duration cfg 3) t1 = .next t2 ∧
      exec (.playNote f duration cfg 3) t2 = .next t3 ∧
      exec (.playNote f duration cfg 3) t3 = .next t3 ∧
      (t1.voice 0).playing = true ∧ t1.voice 1 = s.voice 1 ∧ t1.voice 2 = s.voice 2 ∧
      t2.voice 0 = t1.voice 0 ∧ (t2.voice 1).playing = true ∧ t2.voice 2 = s.voice 2 ∧
      t3.voice 0 = t1.voice 0 ∧ t3.voice 1 = t2.voice 1 ∧ (t3.voice 2).playing = true ∧
      t3.trace = s.trace

/-! ## The Envelope Engine (43_envelope.md) -/

/-- Consumption takes `dt` from attack, decay, sustain and release in this order with the carry; the sum
of the four falls by `min(dt, sum)`; and if the first three are what remains of the note's duration before
the step, they are after it (R152, R26). -/
def Obligations.ConsumptionCarriesOver : Prop :=
  ∀ (dt : Time) (p : PhaseCounters),
    let q := consume dt p
    q.attackLeft.toNat = p.attackLeft.toNat - dt.toNat ∧
    q.decayLeft.toNat = p.decayLeft.toNat - (dt.toNat - p.attackLeft.toNat) ∧
    q.sustainLeft.toNat =
      p.sustainLeft.toNat - (dt.toNat - p.attackLeft.toNat - p.decayLeft.toNat) ∧
    q.releaseLeft.toNat = p.releaseLeft.toNat - (dt.toNat - p.preRelease) ∧
    q.total = p.total - min dt.toNat p.total ∧
    (∀ duration elapsed : ℕ, p.preRelease = duration - elapsed →
      q.preRelease = duration - (elapsed + dt.toNat))

/-- The level an envelope step writes for a voice that keeps its bounds, by the phase selected before
consumption, in exact naturals with nothing truncated and every divisor positive (R151, R153 to R157,
R159). -/
def Obligations.EnvelopeLevels : Prop :=
  ∀ (dt : Time) (v : Voice), v.playing = true → v.countersOk →
    let q := consume dt v.phase
    let env := v.config.envelope
    (0 < v.phase.attackLeft.toNat → 0 < env.attack.toNat ∧
      (envelopeLevel dt v).toNat = 15 * q.attackLeft.toNat / env.attack.toNat) ∧
    (v.phase.attackLeft = 0 → 0 < v.phase.decayLeft.toNat → 0 < env.decay.toNat ∧
      (envelopeLevel dt v).toNat =
        env.sustain.toNat * (env.decay.toNat - q.decayLeft.toNat) / env.decay.toNat) ∧
    (v.phase.attackLeft = 0 → v.phase.decayLeft = 0 → 0 < v.phase.sustainLeft.toNat →
      envelopeLevel dt v = env.sustain) ∧
    (v.phase.attackLeft = 0 → v.phase.decayLeft = 0 → v.phase.sustainLeft = 0 →
      0 < v.phase.releaseLeft.toNat → 0 < env.release.toNat ∧
      (envelopeLevel dt v).toNat = env.sustain.toNat +
        (15 - env.sustain.toNat) * (env.release.toNat - q.releaseLeft.toNat) / env.release.toNat) ∧
    (v.phase.total = 0 → envelopeLevel dt v = 15)

/-- Two consecutive steps in one phase: attack levels never rise, decay and release levels never fall
(R160). -/
def Obligations.EnvelopeIsMonotone : Prop :=
  ∀ (dt dt' : Time) (v : Voice), v.playing = true → v.countersOk →
    let w := envelopeVoice dt v
    selectPhase w.phase = selectPhase v.phase →
    (selectPhase v.phase = .attack → (envelopeLevel dt' w).toNat ≤ (envelopeLevel dt v).toNat) ∧
    (selectPhase v.phase = .decay → (envelopeLevel dt v).toNat ≤ (envelopeLevel dt' w).toNat) ∧
    (selectPhase v.phase = .release → (envelopeLevel dt v).toNat ≤ (envelopeLevel dt' w).toNat)

/-- A voice goes idle in a step exactly if the step selected Release and computed 15, or selected nothing;
and in Release the level is 15 exactly if the counter is empty or the sustain level is 15 (R150, R156,
R157). -/
def Obligations.VoiceGoesIdleExactly : Prop :=
  ∀ (dt : Time) (v : Voice), v.playing = true → v.countersOk →
    ((envelopeVoice dt v).playing = false ↔
      (selectPhase v.phase = .release ∧ envelopeLevel dt v = 15) ∨ selectPhase v.phase = .none) ∧
    (selectPhase v.phase = .release →
      (envelopeLevel dt v = 15 ↔
        (consume dt v.phase).releaseLeft = 0 ∨ v.config.envelope.sustain = 15)) ∧
    (envelopeVoice dt v).config = v.config ∧ (envelopeVoice dt v).baseFrequency = v.baseFrequency ∧
    (envelopeVoice dt v).elapsedTime = v.elapsedTime

/-! ## The Modulation Engine (44_modulation.md) -/

/-- The vibrato ramp: 0 up to the delay, 1 from the end of the rise, linear between, never outside 0 to 1;
a zero rise steps at once; at the delay the offset is zero, past the rise it has the full amplitude
(R171). -/
def Obligations.VibratoRamp : Prop :=
  ∀ (e : ℕ) (vib : VibratoConfig),
    0 ≤ rampFactor e vib ∧ rampFactor e vib ≤ 1 ∧
    (e ≤ vib.delay.toNat → rampFactor e vib = 0 ∧ vibratoOffset e vib = 0) ∧
    (vib.delay.toNat < e → vib.delay.toNat + vib.rise.toNat ≤ e →
      rampFactor e vib = 1 ∧ |vibratoOffset e vib| = |vib.amplitude|) ∧
    (vib.delay.toNat < e → e < vib.delay.toNat + vib.rise.toNat →
      2 ≤ vib.rise.toNat ∧
      rampFactor e vib * (vib.rise.toNat : Rat) = (e : Rat) - (vib.delay.toNat : Rat) ∧
      0 < rampFactor e vib ∧ rampFactor e vib < 1)

/-- The vibrato sign is -1 in the first half of each period and +1 in the rest; for a period of 0, 1 or 2
it is always -1 (R172, R178). -/
def Obligations.VibratoSign : Prop :=
  ∀ (e : ℕ) (vib : VibratoConfig),
    (0 < vib.period.toNat → e % vib.period.toNat ≤ vib.period.toNat / 2 → vibratoSign e vib = -1) ∧
    (0 < vib.period.toNat → vib.period.toNat / 2 < e % vib.period.toNat → vibratoSign e vib = 1) ∧
    (vib.period.toNat ≤ 2 → vibratoSign e vib = -1)

/-- Tremolo leaves the bits outside the mask alone and sets the masked bits in the high phase, clears them
otherwise, for ever with a zero period (R175, R176, R178). -/
def Obligations.TremoloTouchesMaskedBitsOnly : Prop :=
  ∀ (n : Div) (e : ℕ) (trem : TremoloConfig) (k : ℕ), k < 10 →
    (trem.bitMask.getLsbD k = false → (tremoloValue n e trem).getLsbD k = n.getLsbD k) ∧
    (trem.bitMask.getLsbD k = true →
      ((tremoloValue n e trem).getLsbD k = true ↔
        0 < trem.period.toNat ∧ trem.period.toNat < 2 * (e % trem.period.toNat)))

/-- An amplitude of zero makes the offset zero for every time, and a mask of zero makes the tremolo value
the vibrato value (R179). -/
def Obligations.ZeroSwitchesEffectsOff : Prop :=
  (∀ v : Voice, v.config.vibrato.amplitude = 0 → effectiveFreq v = v.baseFrequency) ∧
  (∀ (clock : ℕ+) (v : Voice), v.config.tremolo.bitMask = 0 →
    tremoloDivisor clock v = vibratoDivisor clock v)

/-! ## The Tick Scheduler (45_tick_scheduler.md) -/

/-- A tick in a fault-free run, whole: it takes the timestamp; each processed voice, in slot order, is
aged by the modular difference, steps its envelope and has its five bytes written; no other voice and
nothing else changes (R191 to R196). -/
def Obligations.TickProcessesVoicesInOrder : Prop :=
  ∀ (s : State) (now : Time), s.running = true → s.answersOk → s.pinsIdle →
    let dt := now - s.lastTick
    ∃ t, exec (.tick now) s = .next t ∧
      t.lastTick = now ∧
      t.trace = s.trace ++ (processedSlots s).flatMap (processedBytes s dt) ∧
      (∀ i, i ∈ processedSlots s → t.voice i = envelopeVoice dt (agedVoice dt (s.voice i))) ∧
      (∀ i, i ∉ processedSlots s → t.voice i = s.voice i) ∧
      t.params = s.params ∧ t.noisePlaying = s.noisePlaying ∧ t.started = s.started ∧
      t.fault = s.fault ∧ t.faultCause = s.faultCause ∧ t.cutByte = s.cutByte ∧ t.quiescent

/-- A tick writes five bytes for each voice it processes, at most fifteen; with no voice playing it only
takes the timestamp (R196). -/
def Obligations.TickSize : Prop :=
  ∀ (s : State) (now : Time), s.running = true → s.pinsIdle →
    (s.answersOk → ∃ t, exec (.tick now) s = .next t ∧
      t.trace.length = s.trace.length + 5 * (processedSlots s).length ∧
      (processedSlots s).length ≤ 3) ∧
    ((∀ i, (s.voice i).playing = false) →
      exec (.tick now) s = .next { s with lastTick := now, busy := false, seq := .idle })

/-- A tick in the running state, whatever the pin driver answers, takes the timestamp and advances voice
0, if it plays, by `(now - lastTickTimestamp) mod 2^32`, even if a pin failure then ends the tick (R191,
R193, R214). -/
def Obligations.TickTakesTheModularDifference : Prop :=
  ∀ (s : State) (now : Time), s.running = true → s.voicesOk →
    ∃ t, exec (.tick now) s = .next t ∧ t.lastTick = now ∧
      ((s.voice 0).playing = true →
        (t.voice 0).elapsedTime.toNat =
          (s.voice 0).elapsedTime.toNat + (now.toNat + 2 ^ 32 - s.lastTick.toNat) % 2 ^ 32)

/-- Under EARLY_STOP a voice at or behind an idle one is frozen by every tick, whatever the pin driver
answers; without it every playing voice is aged in a fault-free tick (R194). -/
def Obligations.EarlyStopFreezesHigherVoices : Prop :=
  ∀ (s : State) (now : Time), s.running = true →
    (s.params.earlyStop = true → ∀ i j, (s.voice i).playing = false → i ≤ j →
      ∃ t, exec (.tick now) s = .next t ∧ t.voice j = s.voice j) ∧
    (s.params.earlyStop = false → s.answersOk → ∀ j, (s.voice j).playing = true →
      ∃ t, exec (.tick now) s = .next t ∧
        (t.voice j).elapsedTime = (s.voice j).elapsedTime + (now - s.lastTick).setWidth 34)

/-! ## The whole machine -/

/-- The state after reset has the reset values of R36 and keeps every invariant below (R36, R240). -/
def Obligations.ResetKeepsEveryInvariant : Prop :=
  State.reset.quiescent ∧ State.reset.voicesOk ∧ State.reset.traceOk ∧ State.reset.pulsesOk ∧
  State.reset.flagsOk ∧ (∀ i, State.reset.voice i = Voice.zero) ∧ State.reset.lastTick = 0 ∧
  State.reset.mode = .stopped ∧ State.reset.faultCause.code = 0 ∧ State.reset.trace = [] ∧
  chipImage State.reset = ChipImage.unwritten

/-- Between operations the CORE is quiescent: from a quiescent state every step answers a next state, never
a fault or a refusal, and it is quiescent again, whatever the pin driver answers (R14, R119, R246). -/
def Obligations.EveryStepEndsQuiescent : Prop :=
  ∀ s : State, s.quiescent → ∃ t, step s = .next t ∧ t.quiescent

/-- Every step keeps the voices' bounds: no counter above its phase length, and, outside the fault state,
an elapsed time so far from the end of its 34 bits that the next tick cannot wrap it (R153, R203). -/
def Obligations.EveryStepKeepsVoiceBounds : Prop :=
  ∀ s t : State, s.quiescent → s.voicesOk → step s = .next t → t.voicesOk

/-- Every step keeps the grammar of the bus trace: only the five words, a data byte only directly after
its TONE_DIV_LO, and a TONE_DIV_LO left alone only by a fault (R59, R77, R78, R79). -/
def Obligations.EveryStepKeepsTraceGrammar : Prop :=
  ∀ s t : State, s.quiescent → s.traceOk → step s = .next t → t.traceOk

/-- Every step keeps the discipline of the write pulse: the data pins never move while `WE_n` is low, and
every pulse waits WRITE_TIME once (R243, R244, R245). -/
def Obligations.EveryStepKeepsPulseDiscipline : Prop :=
  ∀ s t : State, s.quiescent → s.pulsesOk → step s = .next t → t.pulsesOk

/-- Every step keeps the agreement of the flags: a fault has a cause and no fault has none, a pulse is cut
only by a fault, the noise slot never plays (R28, R211). -/
def Obligations.EveryStepKeepsFlagsAgreeing : Prop :=
  ∀ s t : State, s.quiescent → s.flagsOk → step s = .next t → t.flagsOk

/-- No step writes the configuration constants (R32). -/
def Obligations.ConstantsNeverChange : Prop :=
  ∀ s t : State, step s = .next t → t.params = s.params

/-- Unless a reset lands, a step only appends to the bus trace, at most fifteen bytes (R14, R53). -/
def Obligations.TraceOnlyGrows : Prop :=
  ∀ s t : State, s.noResetNext → step s = .next t →
    ∃ bytes, t.trace = s.trace ++ bytes ∧ bytes.length ≤ 15

/-- Only PLAY_NOTE starts a voice, and only PLAY_NOTE, BEGIN and END write a voice's config or base
frequency, these last two only by putting the whole voice at zero. Every other instruction, a TICK that a
pin failure ends among them, leaves both as they were (R21, R25, R37). -/
def Obligations.OnlyPlayNoteStartsVoices : Prop :=
  ∀ (i : Instr) (s t : State), exec i s = .next t → isPlayNote i = false → ∀ j,
    ((t.voice j).playing = true → (s.voice j).playing = true) ∧
    ((t.voice j).config = (s.voice j).config ∧
        (t.voice j).baseFrequency = (s.voice j).baseFrequency ∨
      ((isBegin i = true ∨ i = .endOp) ∧ t.voice j = Voice.zero))

/-- The frame of every instruction by the access table: the direct writes, the reserved codes and the
internal steps change nothing off the bus; PLAY_NOTE changes nothing but voices (and completes); TICK
leaves `started` and the noise slot; BEGIN and END write no byte; none writes an input but the pin driver's
answers (R37). -/
def Obligations.AccessTableFrame : Prop :=
  ∀ (i : Instr) (s t : State), exec i s = .next t →
    (isBusOnly i = true → sameOffBus s t) ∧
    (isPlayNote i = true → t = { s with voices := t.voices, busy := t.busy, seq := t.seq }) ∧
    (∀ now, i = .tick now → t.started = s.started ∧ t.noisePlaying = s.noisePlaying) ∧
    ((isBegin i = true ∨ i = .endOp) → s.pinsIdle → t.trace = s.trace ∧ t.pinsIdle) ∧
    t.inputs = { s.inputs with ioFail := t.inputs.ioFail }

/-! ## Steps and ports (10_state.md R34, 45_tick_scheduler.md R201) -/

/-- A step runs the decoded instruction: what the sequencer fetches decodes to `i`, and the step is `exec
i` on the state past the fetch, then the environment's frame (R11). -/
def Obligations.StepRunsTheDecodedInstruction : Prop :=
  ∀ (s s' : State) (w : RawWord) (i : Instr), s.fetch = some (w, s') → decode w = .ok i →
    step s = arriveAfter (exec i s')

/-- Acceptance at the two ports, of a CORE that is ready: a lone command or tick is taken and its port is
freed; of two waiting requests `tickFirst` decides and the other one stays; a TICK and a BEGIN sample
`now` and `cmd_cfg_ok` at acceptance; with none waiting nothing changes but the inputs (R34, R201, R218). -/
def Obligations.PortsAcceptOneRequest : Prop :=
  ∀ s : State, s.seq = .idle → s.busy = false →
    (∀ r, s.inputs.cmdPort = some r → (s.inputs.tickReq = false ∨ s.inputs.tickFirst = false) →
      step s = arriveAfter (exec (decodeCmd r s.inputs.cfgOk s.inputs.now)
        { s with inputs := { s.inputs with cmdPort := none } })) ∧
    (s.inputs.tickReq = true → (s.inputs.cmdPort = none ∨ s.inputs.tickFirst = true) →
      step s = arriveAfter (exec (.tick s.inputs.now)
        { s with inputs := { s.inputs with tickReq := false } })) ∧
    (s.inputs.cmdPort = none → s.inputs.tickReq = false → step s = .next s.arrive)

/-- A tick raised while one waits merges with it: one request, and the later `now` stands (R201). -/
def Obligations.WaitingTicksMerge : Prop :=
  ∀ (inp : Inputs) (f : EnvFrame) (rest : List EnvFrame), inp.tickReq = true →
    (inp.after f rest).tickReq = true ∧ (inp.after f rest).now = f.now ∧
    (f.cmd = none → (inp.after f rest).cmdPort = inp.cmdPort)

/-- The sequencer within a step of an operation, at any event of one of its transaction lists: the events
before it, from idle pins, leave it in that step at a position that follows R117, and the event moves it on
and never back. `WE_n` is low exactly from (2) to (4), and the bytes that joined the trace are those of the
complete transactions and the one whose pulse is just raised. If the event is the first that fails, the
sequencer is IDLE and `busy` is 0 (R30, R117, R214). R117 lists one BusWrite and gives the two drives of
BEGIN and END (`idleEvents`) no position: that they count as events of (1) is the model's choice (log 1). -/
def Obligations.SequencerFollowsTheTransaction : Prop :=
  ∀ (s : State) (place : Place) (pre post : List PinEvent) (e : PinEvent) (rest : List Bool),
    s.seq = .inside place .start → s.pinsIdle → Transaction s.params (pre ++ e :: post) →
    (∃ p : BusPos,
      (applyEvents pre s).seq = .inside place p ∧
      (applyEvents (pre ++ [e]) s).seq = .inside place (p.after e) ∧ p.before (p.after e) ∧
      ((applyEvents pre s).weN = false ↔ p.step = .lowered ∨ p.step = .held) ∧
      (applyEvents pre s).trace.length =
        s.trace.length + p.complete + (if p.step = .raised then 1 else 0)) ∧
    (e.asks = true → s.inputs.ioFail = List.replicate (askedOf pre) false ++ true :: rest →
      ∃ t, drivePins (pre ++ e :: post) s = .aborted t ∧ t.seq = .idle ∧ t.busy = false) ∧
    (s.answersOk → drivePins (pre ++ e :: post) s = .going (applyEvents (pre ++ e :: post) s))
end

