-- ==== Sys2Proof/Laws/State.lean ====
section
/-! SUPPORT. One lemma for each field of State and each named update, true by rfl. -/

namespace Sys2Proof.Machine

open Sys2Proof

variable (s : State)

/-! ## setVoice -/

@[simp] theorem State.setVoice_params (i : Slot) (v : Voice) :
    (s.setVoice i v).params = s.params := rfl
@[simp] theorem State.setVoice_voices (i : Slot) (v : Voice) :
    (s.setVoice i v).voices = s.voices.set i v := rfl
@[simp] theorem State.setVoice_noisePlaying (i : Slot) (v : Voice) :
    (s.setVoice i v).noisePlaying = s.noisePlaying := rfl
@[simp] theorem State.setVoice_lastTick (i : Slot) (v : Voice) :
    (s.setVoice i v).lastTick = s.lastTick := rfl
@[simp] theorem State.setVoice_started (i : Slot) (v : Voice) :
    (s.setVoice i v).started = s.started := rfl
@[simp] theorem State.setVoice_busy (i : Slot) (v : Voice) : (s.setVoice i v).busy = s.busy := rfl
@[simp] theorem State.setVoice_fault (i : Slot) (v : Voice) :
    (s.setVoice i v).fault = s.fault := rfl
@[simp] theorem State.setVoice_faultCause (i : Slot) (v : Voice) :
    (s.setVoice i v).faultCause = s.faultCause := rfl
@[simp] theorem State.setVoice_seq (i : Slot) (v : Voice) : (s.setVoice i v).seq = s.seq := rfl
@[simp] theorem State.setVoice_d (i : Slot) (v : Voice) : (s.setVoice i v).d = s.d := rfl
@[simp] theorem State.setVoice_weN (i : Slot) (v : Voice) : (s.setVoice i v).weN = s.weN := rfl
@[simp] theorem State.setVoice_trace (i : Slot) (v : Voice) :
    (s.setVoice i v).trace = s.trace := rfl
@[simp] theorem State.setVoice_pinLog (i : Slot) (v : Voice) :
    (s.setVoice i v).pinLog = s.pinLog := rfl
@[simp] theorem State.setVoice_cutByte (i : Slot) (v : Voice) :
    (s.setVoice i v).cutByte = s.cutByte := rfl
@[simp] theorem State.setVoice_inputs (i : Slot) (v : Voice) :
    (s.setVoice i v).inputs = s.inputs := rfl

/-! ## clearVoices -/

@[simp] theorem State.clearVoices_params : s.clearVoices.params = s.params := rfl
@[simp] theorem State.clearVoices_voices : s.clearVoices.voices = Voices.zero := rfl
@[simp] theorem State.clearVoices_noisePlaying : s.clearVoices.noisePlaying = false := rfl
@[simp] theorem State.clearVoices_lastTick : s.clearVoices.lastTick = s.lastTick := rfl
@[simp] theorem State.clearVoices_started : s.clearVoices.started = s.started := rfl
@[simp] theorem State.clearVoices_busy : s.clearVoices.busy = s.busy := rfl
@[simp] theorem State.clearVoices_fault : s.clearVoices.fault = s.fault := rfl
@[simp] theorem State.clearVoices_faultCause : s.clearVoices.faultCause = s.faultCause := rfl
@[simp] theorem State.clearVoices_seq : s.clearVoices.seq = s.seq := rfl
@[simp] theorem State.clearVoices_d : s.clearVoices.d = s.d := rfl
@[simp] theorem State.clearVoices_weN : s.clearVoices.weN = s.weN := rfl
@[simp] theorem State.clearVoices_trace : s.clearVoices.trace = s.trace := rfl
@[simp] theorem State.clearVoices_pinLog : s.clearVoices.pinLog = s.pinLog := rfl
@[simp] theorem State.clearVoices_cutByte : s.clearVoices.cutByte = s.cutByte := rfl
@[simp] theorem State.clearVoices_inputs : s.clearVoices.inputs = s.inputs := rfl

/-! ## setLastTick -/

@[simp] theorem State.setLastTick_params (now : Time) :
    (s.setLastTick now).params = s.params := rfl
@[simp] theorem State.setLastTick_voices (now : Time) :
    (s.setLastTick now).voices = s.voices := rfl
@[simp] theorem State.setLastTick_noisePlaying (now : Time) :
    (s.setLastTick now).noisePlaying = s.noisePlaying := rfl
@[simp] theorem State.setLastTick_lastTick (now : Time) :
    (s.setLastTick now).lastTick = now := rfl
@[simp] theorem State.setLastTick_started (now : Time) :
    (s.setLastTick now).started = s.started := rfl
@[simp] theorem State.setLastTick_busy (now : Time) :
    (s.setLastTick now).busy = s.busy := rfl
@[simp] theorem State.setLastTick_fault (now : Time) :
    (s.setLastTick now).fault = s.fault := rfl
@[simp] theorem State.setLastTick_faultCause (now : Time) :
    (s.setLastTick now).faultCause = s.faultCause := rfl
@[simp] theorem State.setLastTick_seq (now : Time) :
    (s.setLastTick now).seq = s.seq := rfl
@[simp] theorem State.setLastTick_d (now : Time) :
    (s.setLastTick now).d = s.d := rfl
@[simp] theorem State.setLastTick_weN (now : Time) :
    (s.setLastTick now).weN = s.weN := rfl
@[simp] theorem State.setLastTick_trace (now : Time) :
    (s.setLastTick now).trace = s.trace := rfl
@[simp] theorem State.setLastTick_pinLog (now : Time) :
    (s.setLastTick now).pinLog = s.pinLog := rfl
@[simp] theorem State.setLastTick_cutByte (now : Time) :
    (s.setLastTick now).cutByte = s.cutByte := rfl
@[simp] theorem State.setLastTick_inputs (now : Time) :
    (s.setLastTick now).inputs = s.inputs := rfl

/-! ## setStarted -/

@[simp] theorem State.setStarted_params (b : Bool) :
    (s.setStarted b).params = s.params := rfl
@[simp] theorem State.setStarted_voices (b : Bool) :
    (s.setStarted b).voices = s.voices := rfl
@[simp] theorem State.setStarted_noisePlaying (b : Bool) :
    (s.setStarted b).noisePlaying = s.noisePlaying := rfl
@[simp] theorem State.setStarted_lastTick (b : Bool) :
    (s.setStarted b).lastTick = s.lastTick := rfl
@[simp] theorem State.setStarted_started (b : Bool) :
    (s.setStarted b).started = b := rfl
@[simp] theorem State.setStarted_busy (b : Bool) :
    (s.setStarted b).busy = s.busy := rfl
@[simp] theorem State.setStarted_fault (b : Bool) :
    (s.setStarted b).fault = s.fault := rfl
@[simp] theorem State.setStarted_faultCause (b : Bool) :
    (s.setStarted b).faultCause = s.faultCause := rfl
@[simp] theorem State.setStarted_seq (b : Bool) :
    (s.setStarted b).seq = s.seq := rfl
@[simp] theorem State.setStarted_d (b : Bool) :
    (s.setStarted b).d = s.d := rfl
@[simp] theorem State.setStarted_weN (b : Bool) :
    (s.setStarted b).weN = s.weN := rfl
@[simp] theorem State.setStarted_trace (b : Bool) :
    (s.setStarted b).trace = s.trace := rfl
@[simp] theorem State.setStarted_pinLog (b : Bool) :
    (s.setStarted b).pinLog = s.pinLog := rfl
@[simp] theorem State.setStarted_cutByte (b : Bool) :
    (s.setStarted b).cutByte = s.cutByte := rfl
@[simp] theorem State.setStarted_inputs (b : Bool) :
    (s.setStarted b).inputs = s.inputs := rfl

/-! ## accept -/

@[simp] theorem State.accept_params (q : Place) : (s.accept q).params = s.params := rfl
@[simp] theorem State.accept_voices (q : Place) : (s.accept q).voices = s.voices := rfl
@[simp] theorem State.accept_noisePlaying (q : Place) :
    (s.accept q).noisePlaying = s.noisePlaying := rfl
@[simp] theorem State.accept_lastTick (q : Place) : (s.accept q).lastTick = s.lastTick := rfl
@[simp] theorem State.accept_started (q : Place) : (s.accept q).started = s.started := rfl
@[simp] theorem State.accept_busy (q : Place) : (s.accept q).busy = true := rfl
@[simp] theorem State.accept_fault (q : Place) : (s.accept q).fault = s.fault := rfl
@[simp] theorem State.accept_faultCause (q : Place) : (s.accept q).faultCause = s.faultCause := rfl
@[simp] theorem State.accept_seq (q : Place) :
    (s.accept q).seq = .inside q .start := rfl
@[simp] theorem State.accept_d (q : Place) : (s.accept q).d = s.d := rfl
@[simp] theorem State.accept_weN (q : Place) : (s.accept q).weN = s.weN := rfl
@[simp] theorem State.accept_trace (q : Place) : (s.accept q).trace = s.trace := rfl
@[simp] theorem State.accept_pinLog (q : Place) : (s.accept q).pinLog = s.pinLog := rfl
@[simp] theorem State.accept_cutByte (q : Place) : (s.accept q).cutByte = s.cutByte := rfl
@[simp] theorem State.accept_inputs (q : Place) : (s.accept q).inputs = s.inputs := rfl

/-! ## moveTo -/

@[simp] theorem State.moveTo_params (q : Place) :
    (s.moveTo q).params = s.params := rfl
@[simp] theorem State.moveTo_voices (q : Place) :
    (s.moveTo q).voices = s.voices := rfl
@[simp] theorem State.moveTo_noisePlaying (q : Place) :
    (s.moveTo q).noisePlaying = s.noisePlaying := rfl
@[simp] theorem State.moveTo_lastTick (q : Place) :
    (s.moveTo q).lastTick = s.lastTick := rfl
@[simp] theorem State.moveTo_started (q : Place) :
    (s.moveTo q).started = s.started := rfl
@[simp] theorem State.moveTo_busy (q : Place) :
    (s.moveTo q).busy = s.busy := rfl
@[simp] theorem State.moveTo_fault (q : Place) :
    (s.moveTo q).fault = s.fault := rfl
@[simp] theorem State.moveTo_faultCause (q : Place) :
    (s.moveTo q).faultCause = s.faultCause := rfl
@[simp] theorem State.moveTo_seq (q : Place) :
    (s.moveTo q).seq = .inside q .start := rfl
@[simp] theorem State.moveTo_d (q : Place) :
    (s.moveTo q).d = s.d := rfl
@[simp] theorem State.moveTo_weN (q : Place) :
    (s.moveTo q).weN = s.weN := rfl
@[simp] theorem State.moveTo_trace (q : Place) :
    (s.moveTo q).trace = s.trace := rfl
@[simp] theorem State.moveTo_pinLog (q : Place) :
    (s.moveTo q).pinLog = s.pinLog := rfl
@[simp] theorem State.moveTo_cutByte (q : Place) :
    (s.moveTo q).cutByte = s.cutByte := rfl
@[simp] theorem State.moveTo_inputs (q : Place) :
    (s.moveTo q).inputs = s.inputs := rfl

/-! ## complete -/

@[simp] theorem State.complete_params : s.complete.params = s.params := rfl
@[simp] theorem State.complete_voices : s.complete.voices = s.voices := rfl
@[simp] theorem State.complete_noisePlaying : s.complete.noisePlaying = s.noisePlaying := rfl
@[simp] theorem State.complete_lastTick : s.complete.lastTick = s.lastTick := rfl
@[simp] theorem State.complete_started : s.complete.started = s.started := rfl
@[simp] theorem State.complete_busy : s.complete.busy = false := rfl
@[simp] theorem State.complete_fault : s.complete.fault = s.fault := rfl
@[simp] theorem State.complete_faultCause : s.complete.faultCause = s.faultCause := rfl
@[simp] theorem State.complete_seq : s.complete.seq = .idle := rfl
@[simp] theorem State.complete_d : s.complete.d = s.d := rfl
@[simp] theorem State.complete_weN : s.complete.weN = s.weN := rfl
@[simp] theorem State.complete_trace : s.complete.trace = s.trace := rfl
@[simp] theorem State.complete_pinLog : s.complete.pinLog = s.pinLog := rfl
@[simp] theorem State.complete_cutByte : s.complete.cutByte = s.cutByte := rfl
@[simp] theorem State.complete_inputs : s.complete.inputs = s.inputs := rfl

/-! ## enterFault -/

@[simp] theorem State.enterFault_params (c : FaultCause) : (s.enterFault c).params = s.params := rfl
@[simp] theorem State.enterFault_voices (c : FaultCause) : (s.enterFault c).voices = s.voices := rfl
@[simp] theorem State.enterFault_noisePlaying (c : FaultCause) :
    (s.enterFault c).noisePlaying = s.noisePlaying := rfl
@[simp] theorem State.enterFault_lastTick (c : FaultCause) :
    (s.enterFault c).lastTick = s.lastTick := rfl
@[simp] theorem State.enterFault_started (c : FaultCause) :
    (s.enterFault c).started = s.started := rfl
@[simp] theorem State.enterFault_busy (c : FaultCause) : (s.enterFault c).busy = false := rfl
@[simp] theorem State.enterFault_fault (c : FaultCause) : (s.enterFault c).fault = true := rfl
@[simp] theorem State.enterFault_faultCause (c : FaultCause) :
    (s.enterFault c).faultCause = c := rfl
@[simp] theorem State.enterFault_seq (c : FaultCause) : (s.enterFault c).seq = .idle := rfl
@[simp] theorem State.enterFault_d (c : FaultCause) : (s.enterFault c).d = s.d := rfl
@[simp] theorem State.enterFault_weN (c : FaultCause) : (s.enterFault c).weN = s.weN := rfl
@[simp] theorem State.enterFault_trace (c : FaultCause) : (s.enterFault c).trace = s.trace := rfl
@[simp] theorem State.enterFault_pinLog (c : FaultCause) : (s.enterFault c).pinLog = s.pinLog := rfl
@[simp] theorem State.enterFault_cutByte (c : FaultCause) :
    (s.enterFault c).cutByte = s.cutByte := rfl
@[simp] theorem State.enterFault_inputs (c : FaultCause) : (s.enterFault c).inputs = s.inputs := rfl

/-! ## raiseConfigError -/

@[simp] theorem State.raiseConfigError_params : s.raiseConfigError.params = s.params := rfl
@[simp] theorem State.raiseConfigError_voices : s.raiseConfigError.voices = s.voices := rfl
@[simp] theorem State.raiseConfigError_noisePlaying :
    s.raiseConfigError.noisePlaying = s.noisePlaying := rfl
@[simp] theorem State.raiseConfigError_lastTick : s.raiseConfigError.lastTick = s.lastTick := rfl
@[simp] theorem State.raiseConfigError_started : s.raiseConfigError.started = s.started := rfl
@[simp] theorem State.raiseConfigError_busy : s.raiseConfigError.busy = false := rfl
@[simp] theorem State.raiseConfigError_fault : s.raiseConfigError.fault = true := rfl
@[simp] theorem State.raiseConfigError_faultCause :
    s.raiseConfigError.faultCause = .configError := rfl
@[simp] theorem State.raiseConfigError_seq : s.raiseConfigError.seq = .idle := rfl
@[simp] theorem State.raiseConfigError_d : s.raiseConfigError.d = s.d := rfl
@[simp] theorem State.raiseConfigError_weN : s.raiseConfigError.weN = s.weN := rfl
@[simp] theorem State.raiseConfigError_trace : s.raiseConfigError.trace = s.trace := rfl
@[simp] theorem State.raiseConfigError_pinLog : s.raiseConfigError.pinLog = s.pinLog := rfl
@[simp] theorem State.raiseConfigError_cutByte : s.raiseConfigError.cutByte = s.cutByte := rfl
@[simp] theorem State.raiseConfigError_inputs : s.raiseConfigError.inputs = s.inputs := rfl

/-! ## pinsToIdle -/

@[simp] theorem State.pinsToIdle_params : s.pinsToIdle.params = s.params := rfl
@[simp] theorem State.pinsToIdle_voices : s.pinsToIdle.voices = s.voices := rfl
@[simp] theorem State.pinsToIdle_noisePlaying : s.pinsToIdle.noisePlaying = s.noisePlaying := rfl
@[simp] theorem State.pinsToIdle_lastTick : s.pinsToIdle.lastTick = s.lastTick := rfl
@[simp] theorem State.pinsToIdle_started : s.pinsToIdle.started = s.started := rfl
@[simp] theorem State.pinsToIdle_busy : s.pinsToIdle.busy = s.busy := rfl
@[simp] theorem State.pinsToIdle_fault : s.pinsToIdle.fault = s.fault := rfl
@[simp] theorem State.pinsToIdle_faultCause : s.pinsToIdle.faultCause = s.faultCause := rfl
@[simp] theorem State.pinsToIdle_seq : s.pinsToIdle.seq = s.seq := rfl
@[simp] theorem State.pinsToIdle_d : s.pinsToIdle.d = 0 := rfl
@[simp] theorem State.pinsToIdle_weN : s.pinsToIdle.weN = true := rfl
@[simp] theorem State.pinsToIdle_trace : s.pinsToIdle.trace = s.trace := rfl
@[simp] theorem State.pinsToIdle_pinLog :
    s.pinsToIdle.pinLog = s.pinLog ++ [.weN true, .data 7 0 0] := rfl
@[simp] theorem State.pinsToIdle_cutByte :
    s.pinsToIdle.cutByte = if s.weN then s.cutByte else some s.d := rfl
@[simp] theorem State.pinsToIdle_inputs :
    s.pinsToIdle.inputs = { s.inputs with ioFail := s.inputs.ioFail.drop 2 } := rfl

/-! ## raiseBusIOError -/

@[simp] theorem State.raiseBusIOError_params : s.raiseBusIOError.params = s.params := rfl
@[simp] theorem State.raiseBusIOError_voices : s.raiseBusIOError.voices = s.voices := rfl
@[simp] theorem State.raiseBusIOError_noisePlaying :
    s.raiseBusIOError.noisePlaying = s.noisePlaying := rfl
@[simp] theorem State.raiseBusIOError_lastTick : s.raiseBusIOError.lastTick = s.lastTick := rfl
@[simp] theorem State.raiseBusIOError_started : s.raiseBusIOError.started = s.started := rfl
@[simp] theorem State.raiseBusIOError_busy : s.raiseBusIOError.busy = false := rfl
@[simp] theorem State.raiseBusIOError_fault : s.raiseBusIOError.fault = true := rfl
@[simp] theorem State.raiseBusIOError_faultCause : s.raiseBusIOError.faultCause = .busIOError := rfl
@[simp] theorem State.raiseBusIOError_seq : s.raiseBusIOError.seq = .idle := rfl
@[simp] theorem State.raiseBusIOError_d : s.raiseBusIOError.d = 0 := rfl
@[simp] theorem State.raiseBusIOError_weN : s.raiseBusIOError.weN = true := rfl
@[simp] theorem State.raiseBusIOError_trace : s.raiseBusIOError.trace = s.trace := rfl
@[simp] theorem State.raiseBusIOError_pinLog :
    s.raiseBusIOError.pinLog = s.pinLog ++ [.weN true, .data 7 0 0] := rfl
@[simp] theorem State.raiseBusIOError_cutByte :
    s.raiseBusIOError.cutByte = if s.weN then s.cutByte else some s.d := rfl
@[simp] theorem State.raiseBusIOError_inputs :
    s.raiseBusIOError.inputs = { s.inputs with ioFail := s.inputs.ioFail.tail.drop 2 } := rfl

/-! ## hardReset -/

@[simp] theorem State.hardReset_params : s.hardReset.params = s.params := rfl
@[simp] theorem State.hardReset_voices : s.hardReset.voices = State.reset.voices := rfl
@[simp] theorem State.hardReset_noisePlaying :
    s.hardReset.noisePlaying = State.reset.noisePlaying := rfl
@[simp] theorem State.hardReset_lastTick : s.hardReset.lastTick = State.reset.lastTick := rfl
@[simp] theorem State.hardReset_started : s.hardReset.started = State.reset.started := rfl
@[simp] theorem State.hardReset_busy : s.hardReset.busy = State.reset.busy := rfl
@[simp] theorem State.hardReset_fault : s.hardReset.fault = State.reset.fault := rfl
@[simp] theorem State.hardReset_faultCause : s.hardReset.faultCause = State.reset.faultCause := rfl
@[simp] theorem State.hardReset_seq : s.hardReset.seq = State.reset.seq := rfl
@[simp] theorem State.hardReset_d : s.hardReset.d = State.reset.d := rfl
@[simp] theorem State.hardReset_weN : s.hardReset.weN = State.reset.weN := rfl
@[simp] theorem State.hardReset_trace : s.hardReset.trace = State.reset.trace := rfl
@[simp] theorem State.hardReset_pinLog : s.hardReset.pinLog = State.reset.pinLog := rfl
@[simp] theorem State.hardReset_cutByte : s.hardReset.cutByte = State.reset.cutByte := rfl
@[simp] theorem State.hardReset_inputs : s.hardReset.inputs = s.inputs := rfl

/-! ## wrote -/

@[simp] theorem State.wrote_params (bs : List Byte) (es : List PinEvent) :
    (s.wrote bs es).params = s.params := rfl
@[simp] theorem State.wrote_voices (bs : List Byte) (es : List PinEvent) :
    (s.wrote bs es).voices = s.voices := rfl
@[simp] theorem State.wrote_noisePlaying (bs : List Byte) (es : List PinEvent) :
    (s.wrote bs es).noisePlaying = s.noisePlaying := rfl
@[simp] theorem State.wrote_lastTick (bs : List Byte) (es : List PinEvent) :
    (s.wrote bs es).lastTick = s.lastTick := rfl
@[simp] theorem State.wrote_started (bs : List Byte) (es : List PinEvent) :
    (s.wrote bs es).started = s.started := rfl
@[simp] theorem State.wrote_busy (bs : List Byte) (es : List PinEvent) :
    (s.wrote bs es).busy = s.busy := rfl
@[simp] theorem State.wrote_fault (bs : List Byte) (es : List PinEvent) :
    (s.wrote bs es).fault = s.fault := rfl
@[simp] theorem State.wrote_faultCause (bs : List Byte) (es : List PinEvent) :
    (s.wrote bs es).faultCause = s.faultCause := rfl
@[simp] theorem State.wrote_seq (bs : List Byte) (es : List PinEvent) :
    (s.wrote bs es).seq = s.seq.after es := rfl
@[simp] theorem State.wrote_d (bs : List Byte) (es : List PinEvent) : (s.wrote bs es).d = 0 := rfl
@[simp] theorem State.wrote_weN (bs : List Byte) (es : List PinEvent) :
    (s.wrote bs es).weN = true := rfl
@[simp] theorem State.wrote_trace (bs : List Byte) (es : List PinEvent) :
    (s.wrote bs es).trace = s.trace ++ bs := rfl
@[simp] theorem State.wrote_pinLog (bs : List Byte) (es : List PinEvent) :
    (s.wrote bs es).pinLog = s.pinLog ++ es := rfl
@[simp] theorem State.wrote_cutByte (bs : List Byte) (es : List PinEvent) :
    (s.wrote bs es).cutByte = s.cutByte := rfl
@[simp] theorem State.wrote_inputs (bs : List Byte) (es : List PinEvent) :
    (s.wrote bs es).inputs = { s.inputs with ioFail := s.inputs.ioFail.drop (askedOf es) } := rfl

/-! ## takeCmd -/

@[simp] theorem State.takeCmd_params : s.takeCmd.params = s.params := rfl
@[simp] theorem State.takeCmd_voices : s.takeCmd.voices = s.voices := rfl
@[simp] theorem State.takeCmd_noisePlaying : s.takeCmd.noisePlaying = s.noisePlaying := rfl
@[simp] theorem State.takeCmd_lastTick : s.takeCmd.lastTick = s.lastTick := rfl
@[simp] theorem State.takeCmd_started : s.takeCmd.started = s.started := rfl
@[simp] theorem State.takeCmd_busy : s.takeCmd.busy = s.busy := rfl
@[simp] theorem State.takeCmd_fault : s.takeCmd.fault = s.fault := rfl
@[simp] theorem State.takeCmd_faultCause : s.takeCmd.faultCause = s.faultCause := rfl
@[simp] theorem State.takeCmd_seq : s.takeCmd.seq = s.seq := rfl
@[simp] theorem State.takeCmd_d : s.takeCmd.d = s.d := rfl
@[simp] theorem State.takeCmd_weN : s.takeCmd.weN = s.weN := rfl
@[simp] theorem State.takeCmd_trace : s.takeCmd.trace = s.trace := rfl
@[simp] theorem State.takeCmd_pinLog : s.takeCmd.pinLog = s.pinLog := rfl
@[simp] theorem State.takeCmd_cutByte : s.takeCmd.cutByte = s.cutByte := rfl
@[simp] theorem State.takeCmd_inputs : s.takeCmd.inputs = { s.inputs with cmdPort := none } := rfl

/-! ## takeTick -/

@[simp] theorem State.takeTick_params : s.takeTick.params = s.params := rfl
@[simp] theorem State.takeTick_voices : s.takeTick.voices = s.voices := rfl
@[simp] theorem State.takeTick_noisePlaying : s.takeTick.noisePlaying = s.noisePlaying := rfl
@[simp] theorem State.takeTick_lastTick : s.takeTick.lastTick = s.lastTick := rfl
@[simp] theorem State.takeTick_started : s.takeTick.started = s.started := rfl
@[simp] theorem State.takeTick_busy : s.takeTick.busy = s.busy := rfl
@[simp] theorem State.takeTick_fault : s.takeTick.fault = s.fault := rfl
@[simp] theorem State.takeTick_faultCause : s.takeTick.faultCause = s.faultCause := rfl
@[simp] theorem State.takeTick_seq : s.takeTick.seq = s.seq := rfl
@[simp] theorem State.takeTick_d : s.takeTick.d = s.d := rfl
@[simp] theorem State.takeTick_weN : s.takeTick.weN = s.weN := rfl
@[simp] theorem State.takeTick_trace : s.takeTick.trace = s.trace := rfl
@[simp] theorem State.takeTick_pinLog : s.takeTick.pinLog = s.pinLog := rfl
@[simp] theorem State.takeTick_cutByte : s.takeTick.cutByte = s.cutByte := rfl
@[simp] theorem State.takeTick_inputs :
    s.takeTick.inputs = { s.inputs with tickReq := false } := rfl

/-! ## applyEvent_data -/

@[simp] theorem applyEvent_data_params (hi lo : Nat) (v : Byte) :
    (applyEvent (.data hi lo v) s).params = s.params := rfl
@[simp] theorem applyEvent_data_voices (hi lo : Nat) (v : Byte) :
    (applyEvent (.data hi lo v) s).voices = s.voices := rfl
@[simp] theorem applyEvent_data_noisePlaying (hi lo : Nat) (v : Byte) :
    (applyEvent (.data hi lo v) s).noisePlaying = s.noisePlaying := rfl
@[simp] theorem applyEvent_data_lastTick (hi lo : Nat) (v : Byte) :
    (applyEvent (.data hi lo v) s).lastTick = s.lastTick := rfl
@[simp] theorem applyEvent_data_started (hi lo : Nat) (v : Byte) :
    (applyEvent (.data hi lo v) s).started = s.started := rfl
@[simp] theorem applyEvent_data_busy (hi lo : Nat) (v : Byte) :
    (applyEvent (.data hi lo v) s).busy = s.busy := rfl
@[simp] theorem applyEvent_data_fault (hi lo : Nat) (v : Byte) :
    (applyEvent (.data hi lo v) s).fault = s.fault := rfl
@[simp] theorem applyEvent_data_faultCause (hi lo : Nat) (v : Byte) :
    (applyEvent (.data hi lo v) s).faultCause = s.faultCause := rfl
@[simp] theorem applyEvent_data_seq (hi lo : Nat) (v : Byte) :
    (applyEvent (.data hi lo v) s).seq = s.seq.afterEvent (.data hi lo v) := rfl
@[simp] theorem applyEvent_data_d (hi lo : Nat) (v : Byte) :
    (applyEvent (.data hi lo v) s).d = driveField s.d hi lo v := rfl
@[simp] theorem applyEvent_data_weN (hi lo : Nat) (v : Byte) :
    (applyEvent (.data hi lo v) s).weN = s.weN := rfl
@[simp] theorem applyEvent_data_trace (hi lo : Nat) (v : Byte) :
    (applyEvent (.data hi lo v) s).trace = s.trace := rfl
@[simp] theorem applyEvent_data_pinLog (hi lo : Nat) (v : Byte) :
    (applyEvent (.data hi lo v) s).pinLog = s.pinLog ++ [.data hi lo v] := rfl
@[simp] theorem applyEvent_data_cutByte (hi lo : Nat) (v : Byte) :
    (applyEvent (.data hi lo v) s).cutByte = s.cutByte := rfl
@[simp] theorem applyEvent_data_inputs (hi lo : Nat) (v : Byte) :
    (applyEvent (.data hi lo v) s).inputs = { s.inputs with ioFail := s.inputs.ioFail.tail } := rfl

/-! ## applyEvent_weN -/

@[simp] theorem applyEvent_weN_params (l : Bool) : (applyEvent (.weN l) s).params = s.params := rfl
@[simp] theorem applyEvent_weN_voices (l : Bool) : (applyEvent (.weN l) s).voices = s.voices := rfl
@[simp] theorem applyEvent_weN_noisePlaying (l : Bool) :
    (applyEvent (.weN l) s).noisePlaying = s.noisePlaying := rfl
@[simp] theorem applyEvent_weN_lastTick (l : Bool) :
    (applyEvent (.weN l) s).lastTick = s.lastTick := rfl
@[simp] theorem applyEvent_weN_started (l : Bool) :
    (applyEvent (.weN l) s).started = s.started := rfl
@[simp] theorem applyEvent_weN_busy (l : Bool) : (applyEvent (.weN l) s).busy = s.busy := rfl
@[simp] theorem applyEvent_weN_fault (l : Bool) : (applyEvent (.weN l) s).fault = s.fault := rfl
@[simp] theorem applyEvent_weN_faultCause (l : Bool) :
    (applyEvent (.weN l) s).faultCause = s.faultCause := rfl
@[simp] theorem applyEvent_weN_seq (l : Bool) : (applyEvent (.weN l) s).seq = s.seq.afterEvent (.weN l) := rfl
@[simp] theorem applyEvent_weN_d (l : Bool) : (applyEvent (.weN l) s).d = s.d := rfl
@[simp] theorem applyEvent_weN_weN (l : Bool) : (applyEvent (.weN l) s).weN = l := rfl
@[simp] theorem applyEvent_weN_trace (l : Bool) :
    (applyEvent (.weN l) s).trace = if !s.weN && l then s.trace ++ [s.d] else s.trace := rfl
@[simp] theorem applyEvent_weN_pinLog (l : Bool) :
    (applyEvent (.weN l) s).pinLog = s.pinLog ++ [.weN l] := rfl
@[simp] theorem applyEvent_weN_cutByte (l : Bool) :
    (applyEvent (.weN l) s).cutByte = s.cutByte := rfl
@[simp] theorem applyEvent_weN_inputs (l : Bool) :
    (applyEvent (.weN l) s).inputs = { s.inputs with ioFail := s.inputs.ioFail.tail } := rfl

/-! ## applyEvent_wait -/

@[simp] theorem applyEvent_wait_params (t : Rat) : (applyEvent (.wait t) s).params = s.params := rfl
@[simp] theorem applyEvent_wait_voices (t : Rat) : (applyEvent (.wait t) s).voices = s.voices := rfl
@[simp] theorem applyEvent_wait_noisePlaying (t : Rat) :
    (applyEvent (.wait t) s).noisePlaying = s.noisePlaying := rfl
@[simp] theorem applyEvent_wait_lastTick (t : Rat) :
    (applyEvent (.wait t) s).lastTick = s.lastTick := rfl
@[simp] theorem applyEvent_wait_started (t : Rat) :
    (applyEvent (.wait t) s).started = s.started := rfl
@[simp] theorem applyEvent_wait_busy (t : Rat) : (applyEvent (.wait t) s).busy = s.busy := rfl
@[simp] theorem applyEvent_wait_fault (t : Rat) : (applyEvent (.wait t) s).fault = s.fault := rfl
@[simp] theorem applyEvent_wait_faultCause (t : Rat) :
    (applyEvent (.wait t) s).faultCause = s.faultCause := rfl
@[simp] theorem applyEvent_wait_seq (t : Rat) : (applyEvent (.wait t) s).seq = s.seq.afterEvent (.wait t) := rfl
@[simp] theorem applyEvent_wait_d (t : Rat) : (applyEvent (.wait t) s).d = s.d := rfl
@[simp] theorem applyEvent_wait_weN (t : Rat) : (applyEvent (.wait t) s).weN = s.weN := rfl
@[simp] theorem applyEvent_wait_trace (t : Rat) : (applyEvent (.wait t) s).trace = s.trace := rfl
@[simp] theorem applyEvent_wait_pinLog (t : Rat) :
    (applyEvent (.wait t) s).pinLog = s.pinLog ++ [.wait t] := rfl
@[simp] theorem applyEvent_wait_cutByte (t : Rat) :
    (applyEvent (.wait t) s).cutByte = s.cutByte := rfl
@[simp] theorem applyEvent_wait_inputs (t : Rat) : (applyEvent (.wait t) s).inputs = s.inputs := rfl

/-! ## Values after reset that later proofs read (R36) -/

@[simp] theorem reset_voices : State.reset.voices = Voices.zero := rfl
@[simp] theorem reset_fault : State.reset.fault = false := rfl
@[simp] theorem reset_faultCause : State.reset.faultCause = .none := rfl
@[simp] theorem reset_started : State.reset.started = false := rfl
@[simp] theorem reset_busy : State.reset.busy = false := rfl
@[simp] theorem reset_seq : State.reset.seq = .idle := rfl
@[simp] theorem reset_d : State.reset.d = 0 := rfl
@[simp] theorem reset_weN : State.reset.weN = true := rfl
@[simp] theorem reset_trace : State.reset.trace = [] := rfl
@[simp] theorem reset_pinLog : State.reset.pinLog = [] := rfl
@[simp] theorem reset_cutByte : State.reset.cutByte = none := rfl
@[simp] theorem reset_noisePlaying : State.reset.noisePlaying = false := rfl
@[simp] theorem reset_lastTick : State.reset.lastTick = 0 := rfl

end Sys2Proof.Machine
end

