-- ==== Sys2Proof/Laws/Voices.lean ====
section
/-! SUPPORT. The voice register file: a read after a write, slots and oscillator fields, and what the
steps of PLAY_NOTE leave. -/

namespace Sys2Proof.Machine

open Sys2Proof

@[simp] theorem Voices.get_set_same (vs : Voices) (i : Slot) (v : Voice) : (vs.set i v).get i = v := by
  fin_cases i <;> rfl

theorem Voices.get_set_ne (vs : Voices) {i j : Slot} (v : Voice) (h : j ≠ i) :
    (vs.set i v).get j = vs.get j := by
  fin_cases i <;> fin_cases j <;> first | rfl | exact absurd rfl h

theorem Voices.get_set (vs : Voices) (i j : Slot) (v : Voice) :
    (vs.set i v).get j = if j = i then v else vs.get j := by
  split
  · next h => subst h; simp
  · next h => exact Voices.get_set_ne vs v h

@[simp] theorem Voices.set_set (vs : Voices) (i : Slot) (v w : Voice) :
    (vs.set i v).set i w = vs.set i w := by
  fin_cases i <;> rfl

@[simp] theorem Voices.set_get (vs : Voices) (i : Slot) : vs.set i (vs.get i) = vs := by
  fin_cases i <;> rfl

@[simp] theorem Voices.get_zero (i : Slot) : Voices.zero.get i = Voice.zero := by fin_cases i <;> rfl

@[simp] theorem State.voice_setVoice_same (s : State) (i : Slot) (v : Voice) :
    (s.setVoice i v).voice i = v := Voices.get_set_same _ _ _

theorem State.voice_setVoice_ne (s : State) {i j : Slot} (v : Voice) (h : j ≠ i) :
    (s.setVoice i v).voice j = s.voice j := Voices.get_set_ne _ _ h

@[simp] theorem State.setVoice_setVoice (s : State) (i : Slot) (v w : Voice) :
    (s.setVoice i v).setVoice i w = s.setVoice i w := by
  simp [State.setVoice]

@[simp] theorem oscOf_ne_three (i : Slot) : oscOf i ≠ 3 := by fin_cases i <;> decide

@[simp] theorem slotOf_oscOf (i : Slot) : slotOf (oscOf i) = some i := by fin_cases i <;> rfl

theorem slotOf_eq_some {o : Osc} {i : Slot} (h : slotOf o = some i) : o = oscOf i := by
  revert h; revert i o; decide

@[simp] theorem slotOf_three : slotOf 3#2 = none := rfl

theorem slotOf_isSome_iff (o : Osc) : (slotOf o).isSome ↔ o ≠ 3 := by revert o; decide

/-- PLAY_NOTE with a target leaves that voice initialised whole and is complete (R140 to R143). -/
theorem startNote_target {f : Freq} {d : Time} {cfg : VoiceConfig} {x : Osc} {s : State} {t : Slot}
    (h : playTarget s x = some t) :
    startNote f d cfg x s = (s.setVoice t { config := cfg, phase := splitDuration d cfg.envelope
                                            baseFrequency := f, elapsedTime := 0
                                            playing := true }).complete := by
  have h' : playTarget (s.accept (.note .select)) x = some t := h
  simp only [startNote, h']
  simp [initialiseStep, splitStep, State.setVoice, State.voice, State.moveTo, State.accept,
    State.complete]

/-- PLAY_NOTE without a target drops the note and is complete (R141). -/
theorem startNote_dropped {f : Freq} {d : Time} {cfg : VoiceConfig} {x : Osc} {s : State}
    (h : playTarget s x = none) : startNote f d cfg x s = s.complete := by
  have h' : playTarget (s.accept (.note .select)) x = none := h
  simp only [startNote, h']
  rfl

/-- Two states with the same fields are the same. -/
theorem Voices.ext_get {a b : Voices} (h : ∀ i, a.get i = b.get i) : a = b := by
  cases a; cases b
  have h0 := h 0; have h1 := h 1; have h2 := h 2
  simp only [Voices.get] at h0 h1 h2
  simp [h0, h1, h2]

end Sys2Proof.Machine
end

