-- ==== Sys2Proof/Laws/Pins.lean ====
section
/-! SUPPORT. What driving pin events does: in a fault-free run it is the fold of the events; otherwise it
stops at the first failing one (R214). The closed form of every register write from idle pins. -/

namespace Sys2Proof.Machine

open Sys2Proof

/-! ## Progress -/

@[simp] theorem Progress.andThen_going (s : State) (f : State → Progress) :
    (Progress.going s).andThen f = f s := rfl

@[simp] theorem Progress.andThen_aborted (s : State) (f : State → Progress) :
    (Progress.aborted s).andThen f = .aborted s := rfl

@[simp] theorem Progress.finish_going (s : State) : (Progress.going s).finish = s.complete := rfl

@[simp] theorem Progress.finish_aborted (s : State) : (Progress.aborted s).finish = s := rfl

@[simp] theorem Progress.state_going (s : State) : (Progress.going s).state = s := rfl

@[simp] theorem Progress.state_aborted (s : State) : (Progress.aborted s).state = s := rfl

theorem Progress.andThen_assoc (p : Progress) (f g : State → Progress) :
    (p.andThen f).andThen g = p.andThen fun s => (f s).andThen g := by
  cases p <;> rfl

/-! ## Folding events -/

@[simp] theorem applyEvents_nil (s : State) : applyEvents [] s = s := rfl

@[simp] theorem applyEvents_cons (e : PinEvent) (es : List PinEvent) (s : State) :
    applyEvents (e :: es) s = applyEvents es (applyEvent e s) := rfl

theorem applyEvents_append (es fs : List PinEvent) (s : State) :
    applyEvents (es ++ fs) s = applyEvents fs (applyEvents es s) := by
  simp [applyEvents, List.foldl_append]

/-- What a pin event never touches. -/
theorem applyEvent_frame (e : PinEvent) (s : State) :
    sameOffBus s (applyEvent e s) ∧ sameFlags s (applyEvent e s) := by
  cases e <;> simp [sameOffBus, sameFlags]

theorem sameOffBus.trans {a b c : State} (h : sameOffBus a b) (k : sameOffBus b c) : sameOffBus a c := by
  simp only [sameOffBus] at *; simp [h, k]

theorem sameFlags.trans {a b c : State} (h : sameFlags a b) (k : sameFlags b c) : sameFlags a c := by
  simp only [sameFlags] at *; simp [h, k]

theorem sameOffBus.refl (s : State) : sameOffBus s s := by simp [sameOffBus]

theorem sameFlags.refl (s : State) : sameFlags s s := by simp [sameFlags]

/-- What pin events never touch. -/
theorem applyEvents_frame (es : List PinEvent) (s : State) :
    sameOffBus s (applyEvents es s) ∧ sameFlags s (applyEvents es s) := by
  induction es generalizing s with
  | nil => exact ⟨.refl s, .refl s⟩
  | cons e es ih =>
    obtain ⟨h, k⟩ := applyEvent_frame e s
    obtain ⟨h', k'⟩ := ih (applyEvent e s)
    exact ⟨h.trans h', k.trans k'⟩

@[simp] theorem applyEvents_params (es : List PinEvent) (s : State) :
    (applyEvents es s).params = s.params := (applyEvents_frame es s).1.1

@[simp] theorem applyEvents_voices (es : List PinEvent) (s : State) :
    (applyEvents es s).voices = s.voices := (applyEvents_frame es s).1.2.1

@[simp] theorem applyEvents_cutByte (es : List PinEvent) (s : State) :
    (applyEvents es s).cutByte = s.cutByte := (applyEvents_frame es s).2.2.2.2

@[simp] theorem applyEvents_pinLog (es : List PinEvent) (s : State) :
    (applyEvents es s).pinLog = s.pinLog ++ es := by
  induction es generalizing s with
  | nil => simp
  | cons e es ih => cases e <;> simp [ih]

/-! ## The sequencer within a transaction (R30) -/

@[simp] theorem Seq.after_nil (q : Seq) : q.after [] = q := rfl

@[simp] theorem Seq.after_cons (q : Seq) (e : PinEvent) (es : List PinEvent) :
    q.after (e :: es) = (q.afterEvent e).after es := rfl

theorem Seq.after_append (q : Seq) (es fs : List PinEvent) :
    q.after (es ++ fs) = (q.after es).after fs := by
  simp [Seq.after, List.foldl_append]

@[simp] theorem Seq.afterEvent_idle (e : PinEvent) : Seq.idle.afterEvent e = .idle := rfl

@[simp] theorem Seq.afterEvent_inside (place : Place) (pos : BusPos) (e : PinEvent) :
    (Seq.inside place pos).afterEvent e = .inside place (pos.after e) := rfl

@[simp] theorem Seq.afterEvent_steps (w : RawWord) (ws : List RawWord) (e : PinEvent) :
    (Seq.steps w ws).afterEvent e = .steps w ws := rfl

/-- Inside an operation pin events move the position, never the step of the operation. -/
theorem Seq.after_inside (place : Place) (pos : BusPos) (es : List PinEvent) :
    (Seq.inside place pos).after es = .inside place (es.foldl BusPos.after pos) := by
  induction es generalizing pos with
  | nil => rfl
  | cons e es ih => exact ih _

/-- A sequencer between operations, or that holds internal steps, is not moved by pin events. -/
@[simp] theorem Seq.after_idle (es : List PinEvent) : Seq.idle.after es = .idle := by
  induction es with
  | nil => rfl
  | cons e es ih => exact ih

@[simp] theorem applyEvents_seq (es : List PinEvent) (s : State) :
    (applyEvents es s).seq = s.seq.after es := by
  induction es generalizing s with
  | nil => rfl
  | cons e es ih => cases e <;> simp [ih]

/-! ## Driving events -/

theorem answersOk_applyEvent {s : State} (h : s.answersOk) (e : PinEvent) :
    (applyEvent e s).answersOk := by
  intro a ha
  refine h a ?_
  cases e <;> simp at ha <;> first | exact ha | exact List.mem_of_mem_tail ha

theorem answersOk_applyEvents {s : State} (h : s.answersOk) (es : List PinEvent) :
    (applyEvents es s).answersOk := by
  induction es generalizing s with
  | nil => exact h
  | cons e es ih => exact ih (answersOk_applyEvent h e)

theorem not_fails_of_answersOk {s : State} (h : s.answersOk) (e : PinEvent) : s.fails e = false := by
  simp only [State.fails, Bool.and_eq_false_iff]
  right
  cases hl : s.inputs.ioFail with
  | nil => rfl
  | cons a l => exact h a (by simp [hl])

/-- In a fault-free run every event happens. -/
theorem drivePins_answersOk {s : State} (h : s.answersOk) (es : List PinEvent) :
    drivePins es s = .going (applyEvents es s) := by
  induction es generalizing s with
  | nil => rfl
  | cons e es ih =>
    simp [drivePins, not_fails_of_answersOk h, ih (answersOk_applyEvent h e)]

theorem drivePins_append (es fs : List PinEvent) (s : State) :
    drivePins (es ++ fs) s = (drivePins es s).andThen (drivePins fs) := by
  induction es generalizing s with
  | nil => rfl
  | cons e es ih => by_cases h : s.fails e <;> simp [drivePins, h, ih]

/-- Everything driving events can do: all of them happen, or those before the first failing one do and
the fault state is entered there (R214). -/
theorem drivePins_cases (es : List PinEvent) (s : State) :
    drivePins es s = .going (applyEvents es s) ∨
    ∃ pre e post, es = pre ++ e :: post ∧ (applyEvents pre s).fails e = true ∧
      drivePins es s = .aborted (applyEvents pre s).raiseBusIOError := by
  induction es generalizing s with
  | nil => exact .inl rfl
  | cons e es ih =>
    by_cases h : s.fails e = true
    · exact .inr ⟨[], e, es, rfl, h, by simp [drivePins, h]⟩
    · obtain hg | ⟨pre, f, post, rfl, hf, ha⟩ := ih (applyEvent e s)
      · exact .inl (by simp [drivePins, h, hg])
      · exact .inr ⟨e :: pre, f, post, rfl, hf, by simp [drivePins, h, ha]⟩

/-! ## The byte a transaction leaves on the pins -/

/-- The byte on the data pins after events that only drive data pins. -/
def pinsAfter (d : Byte) : List PinEvent → Byte
  | [] => d
  | .data hi lo v :: es => pinsAfter (driveField d hi lo v) es
  | .weN _ :: es => pinsAfter d es
  | .wait _ :: es => pinsAfter d es

theorem pinsAfter_toneDivLo (osc : Osc) (lo : BitVec 4) :
    pinsAfter 0 (toneRegisterEvents osc ++ frequencyLowEvents lo) = toneDivLoByte osc lo := by
  revert osc lo; decide +kernel

theorem pinsAfter_toneDivHi (hi : BitVec 6) :
    pinsAfter 0 (frequencyHighEvents hi) = toneDivHiByte hi := by
  revert hi; decide +kernel

theorem pinsAfter_toneAtt (osc : Osc) (level : Att) :
    pinsAfter 0 (toneRegisterEvents osc ++ attenuationEvents level) = toneAttByte osc level := by
  revert osc level; decide +kernel

theorem pinsAfter_noiseCtl (ntype : BitVec 1) (shift : BitVec 2) :
    pinsAfter 0 (noiseRegisterEvents ++ noiseControlEvents ntype shift) =
      noiseCtlByte shift ntype := by
  revert ntype shift; decide +kernel

theorem pinsAfter_noiseAtt (level : Att) :
    pinsAfter 0 (noiseRegisterEvents ++ attenuationEvents level) = noiseAttByte level := by
  revert level; decide +kernel

/-! ## One BusWrite (R52, R117) -/

/-- Events that only drive data pins. -/
def onlyData (es : List PinEvent) : Bool :=
  es.all fun e => match e with
    | .data _ _ _ => true
    | .weN _ => false
    | .wait _ => false

theorem applyEvents_onlyData {es : List PinEvent} (h : onlyData es = true) (s : State) :
    applyEvents es s =
      { s with d := pinsAfter s.d es, pinLog := s.pinLog ++ es, seq := s.seq.after es
               inputs := { s.inputs with ioFail := s.inputs.ioFail.drop es.length } } := by
  induction es generalizing s with
  | nil => simp [pinsAfter]
  | cons e es ih =>
    cases e with
    | data hi lo v =>
      have h' : onlyData es = true := by simpa [onlyData] using h
      rw [applyEvents_cons, ih h']
      simp [pinsAfter, applyEvent, PinEvent.answersLeft, PinEvent.asks, List.drop_tail]
    | weN l => simp [onlyData] at h
    | wait t => simp [onlyData] at h

/-- Data events and then `latch()`, from `WE_n` high: the byte on the pins joins the trace and the pins
are idle again (R52, R116, R117). -/
theorem applyEvents_busWrite {es : List PinEvent} (h : onlyData es = true) {s : State}
    (hd : s.d = 0) (p : Config.Params) :
    applyEvents (es ++ latchEvents p) s = s.wrote [pinsAfter 0 es] (es ++ latchEvents p) := by
  have hc : es.countP PinEvent.asks = es.length := by
    refine List.countP_eq_length.2 fun e he => ?_
    have := List.all_eq_true.1 h e he
    cases e <;> simp_all [PinEvent.asks]
  have hl : askedOf (es ++ latchEvents p) = es.length + 3 := by
    rw [askedOf, List.countP_append, hc]; rfl
  rw [applyEvents_append, applyEvents_onlyData h, State.wrote, hl, Seq.after_append]
  simp [latchEvents, applyEvent, PinEvent.answersLeft, PinEvent.asks, hd, driveField, pinMask]

theorem State.wrote_wrote (s : State) (bs cs : List Byte) (es fs : List PinEvent) :
    (s.wrote bs es).wrote cs fs = s.wrote (bs ++ cs) (es ++ fs) := by
  simp [State.wrote, askedOf, List.drop_drop, Seq.after_append]

/-! ## The register writes, from idle data pins -/

theorem applyEvents_toneAtt {s : State} (hd : s.d = 0) (p : Config.Params) (osc : Osc) (level : Att) :
    applyEvents (toneAttEvents p osc level) s =
      s.wrote [toneAttByte osc level] (toneAttEvents p osc level) := by
  rw [toneAttEvents, applyEvents_busWrite rfl hd, pinsAfter_toneAtt]

theorem applyEvents_toneDivLo {s : State} (hd : s.d = 0) (p : Config.Params) (osc : Osc)
    (lo : BitVec 4) :
    applyEvents (toneDivLoEvents p osc lo) s =
      s.wrote [toneDivLoByte osc lo] (toneDivLoEvents p osc lo) := by
  rw [toneDivLoEvents, applyEvents_busWrite rfl hd, pinsAfter_toneDivLo]

theorem applyEvents_toneDivHi {s : State} (hd : s.d = 0) (p : Config.Params) (hi : BitVec 6) :
    applyEvents (toneDivHiEvents p hi) s = s.wrote [toneDivHiByte hi] (toneDivHiEvents p hi) := by
  rw [toneDivHiEvents, applyEvents_busWrite rfl hd, pinsAfter_toneDivHi]

theorem applyEvents_noiseCtl {s : State} (hd : s.d = 0) (p : Config.Params) (ntype : BitVec 1)
    (shift : BitVec 2) :
    applyEvents (noiseCtlEvents p ntype shift) s =
      s.wrote [noiseCtlByte shift ntype] (noiseCtlEvents p ntype shift) := by
  rw [noiseCtlEvents, applyEvents_busWrite rfl hd, pinsAfter_noiseCtl]

theorem applyEvents_noiseAtt {s : State} (hd : s.d = 0) (p : Config.Params) (level : Att) :
    applyEvents (noiseAttEvents p level) s =
      s.wrote [noiseAttByte level] (noiseAttEvents p level) := by
  rw [noiseAttEvents, applyEvents_busWrite rfl hd, pinsAfter_noiseAtt]

theorem applyEvents_divisor {s : State} (hd : s.d = 0) (p : Config.Params) (osc : Osc) (n : Div) :
    applyEvents (divisorEvents p osc n) s = s.wrote (divisorBytes osc n) (divisorEvents p osc n) := by
  rw [divisorEvents, applyEvents_append, applyEvents_toneDivLo hd, applyEvents_toneDivHi rfl,
    State.wrote_wrote]
  rfl

theorem answersOk_wrote {s : State} (h : s.answersOk) (bs : List Byte) (es : List PinEvent) :
    (s.wrote bs es).answersOk := fun a ha => h a (List.mem_of_mem_drop ha)

@[simp] theorem wrote_voice (s : State) (bs : List Byte) (es : List PinEvent) (i : Slot) :
    (s.wrote bs es).voice i = s.voice i := rfl

end Sys2Proof.Machine
end

