-- ==== Sys2Proof/Laws/Exec.lean ====
section
/-! SUPPORT. What an operation can do, said once: it is made of whole bus transactions and of writes off
the bus. Every invariant of the pins, the trace, the pin log and the faults follows by
`exec_operation_keeps`. -/

namespace Sys2Proof.Machine

open Sys2Proof

/-- The bus side of two states is the same: `t` differs from `s` at most in voices, noise slot,
`lastTickTimestamp`, `started`, `busy` and `seq`. -/
def sameBus (s t : State) : Prop :=
  t.params = s.params ∧ t.fault = s.fault ∧ t.faultCause = s.faultCause ∧ t.d = s.d ∧
  t.weN = s.weN ∧ t.trace = s.trace ∧ t.pinLog = s.pinLog ∧ t.cutByte = s.cutByte ∧
  t.inputs = s.inputs

/-- A property of the bus side that whole transactions started outside the fault state keep, and that
ConfigError keeps. -/
structure BusKept (P : State → Prop) : Prop where
  same : ∀ s t, sameBus s t → P s → P t
  drive : ∀ s es, s.fault = false → Transaction s.params es → P s → P (drivePins es s).state
  config : ∀ s, P s → P s.raiseConfigError

theorem BusKept.accept {P : State → Prop} (h : BusKept P) {s : State} (hs : P s) (q : Place) :
    P (s.accept q) := h.same _ _ (by simp [sameBus]) hs

theorem BusKept.moveTo {P : State → Prop} (h : BusKept P) {s : State} (hs : P s) (q : Place) :
    P (s.moveTo q) := h.same _ _ (by simp [sameBus]) hs

theorem BusKept.setVoice {P : State → Prop} (h : BusKept P) {s : State} (hs : P s) (i : Slot)
    (v : Voice) : P (s.setVoice i v) := h.same _ _ (by simp [sameBus]) hs

theorem BusKept.complete {P : State → Prop} (h : BusKept P) {s : State} (hs : P s) : P s.complete :=
  h.same _ _ (by simp [sameBus]) hs

theorem BusKept.clearVoices {P : State → Prop} (h : BusKept P) {s : State} (hs : P s) :
    P s.clearVoices := h.same _ _ (by simp [sameBus]) hs

theorem BusKept.finish {P : State → Prop} (h : BusKept P) {p : Progress} (hp : P p.state) :
    P p.finish := by
  cases p with
  | going s => exact h.complete hp
  | aborted s => exact hp

theorem BusKept.andThen {P : State → Prop} {p : Progress} {f : State → Progress} (hp : P p.state)
    (hf : ∀ s, p = .going s → P s → P (f s).state) : P (p.andThen f).state := by
  cases p with
  | going s => exact hf s rfl hp
  | aborted s => exact hp

theorem oscOf_of_ne_three {o : Osc} (h : o ≠ 3) : ∃ i, o = oscOf i := by
  obtain ⟨i, hi⟩ := Option.isSome_iff_exists.1 ((slotOf_isSome_iff o).2 h)
  exact ⟨i, slotOf_eq_some hi⟩

theorem fault_of_running {s : State} (h : s.running = true) : s.fault = false := by
  simp [State.running] at h; exact h.2

theorem drivePins_params (es : List PinEvent) (s : State) :
    (drivePins es s).state.params = s.params := by
  obtain h | ⟨pre, e, post, -, -, h⟩ := drivePins_cases es s <;> simp [h]

/-- Pins driven without a failure leave `fault` as it was. -/
theorem drivePins_going_fault {es : List PinEvent} {s u : State} (h : drivePins es s = .going u) :
    u.fault = s.fault := by
  obtain hg | ⟨pre, e, post, -, -, ha⟩ := drivePins_cases es s
  · rw [hg] at h; cases h; exact (applyEvents_frame es s).2.2.1
  · rw [ha] at h; cases h

theorem andThen_going {p : Progress} {f : State → Progress} {u : State}
    (h : p.andThen f = .going u) : ∃ v, p = .going v ∧ f v = .going u := by
  cases p with
  | going v => exact ⟨v, rfl, h⟩
  | aborted v => cases h

theorem BusKept.directWrite {P : State → Prop} (h : BusKept P) {s t : State} {es : List PinEvent}
    (he : Transaction s.params es) (hs : P s) (ht : directWrite es s = .next t) : P t := by
  simp only [Machine.directWrite, Host.Outcome.next.injEq] at ht
  subst ht
  split
  · next hr =>
    exact h.finish (h.drive _ _ (fault_of_running hr) (by simpa using he) (h.accept hs _))
  · exact hs

theorem BusKept.directToneWrite {P : State → Prop} (h : BusKept P) {s t : State} {o : Osc}
    {es : List PinEvent} (he : ∀ i, o = oscOf i → Transaction s.params es) (hs : P s)
    (ht : directToneWrite o es s = .next t) : P t := by
  simp only [Machine.directToneWrite] at ht
  split at ht
  · cases ht; exact hs
  · next ho =>
    obtain ⟨i, hi⟩ := oscOf_of_ne_three ho
    exact h.directWrite (he i hi) hs ht

theorem BusKept.settlePins {P : State → Prop} (h : BusKept P) {s : State} (hf : s.fault = false)
    (hs : P s) (b : Bool) : P (settlePins b s) :=
  h.finish (BusKept.andThen (h.drive _ _ hf .idle hs) fun _ _ hu =>
    h.same _ _ (by simp [sameBus]) hu)

theorem BusKept.modulationStep {P : State → Prop} (h : BusKept P) {s : State} (hf : s.fault = false)
    (hs : P s) (i : Slot) : P (modulationStep i s).state := by
  refine BusKept.andThen (h.drive _ _ hf (.divisor i _) hs) fun u hu hP => ?_
  refine h.drive _ _ ((drivePins_going_fault hu).trans hf) ?_ (h.moveTo hP _)
  have hp := drivePins_params (divisorEvents s.params (oscOf i)
    (vibratoDivisor s.params.masterClockHz (s.voice i))) s
  rw [hu] at hp
  simp only [Progress.state_going] at hp
  simpa [hp] using Transaction.divisor i _

theorem modulationStep_going_fault {i : Slot} {s u : State} (h : modulationStep i s = .going u) :
    u.fault = s.fault := by
  obtain ⟨v, hv, hu⟩ := andThen_going h
  have h1 := drivePins_going_fault hu
  have h2 := drivePins_going_fault hv
  exact h1.trans h2

theorem envelopeStep_going_fault {i : Slot} {dt : Time} {s u : State}
    (h : envelopeStep i dt s = .going u) : u.fault = s.fault := by
  have h1 := drivePins_going_fault h
  exact h1

theorem processVoice_going_fault {i : Slot} {dt : Time} {s u : State}
    (h : processVoice dt i s = .going u) : u.fault = s.fault := by
  obtain ⟨v, hv, hu⟩ := andThen_going h
  have h1 := modulationStep_going_fault hv
  exact (envelopeStep_going_fault hu).trans h1

theorem BusKept.envelopeStep {P : State → Prop} (h : BusKept P) {s : State} (hf : s.fault = false)
    (hs : P s) (i : Slot) (dt : Time) : P (envelopeStep i dt s).state :=
  h.drive _ _ hf (.toneAtt i _) (h.setVoice (h.moveTo hs _) _ _)

theorem BusKept.processVoice {P : State → Prop} (h : BusKept P) {s : State} (hf : s.fault = false)
    (hs : P s) (i : Slot) (dt : Time) : P (processVoice dt i s).state :=
  BusKept.andThen (h.modulationStep (s := (s.moveTo _).setVoice i _) hf (h.setVoice (h.moveTo hs _) _ _) i) fun _ hu hP =>
    h.envelopeStep ((modulationStep_going_fault hu).trans hf) hP i dt

theorem BusKept.voiceLoop {P : State → Prop} (h : BusKept P) (dt : Time) (is : List Slot) {s : State}
    (hf : s.fault = false) (hs : P s) : P (voiceLoop dt is s).state := by
  induction is generalizing s with
  | nil => exact hs
  | cons i is ih =>
    simp only [Machine.voiceLoop]
    split
    · exact BusKept.andThen (h.processVoice hf hs i dt) fun _ hu hP =>
        ih ((processVoice_going_fault hu).trans hf) hP
    · split
      · exact hs
      · exact ih hf hs

/-- Every operation keeps what whole transactions, writes off the bus and ConfigError keep. -/
theorem exec_operation_keeps {P : State → Prop} (h : BusKept P) {i : Instr} {s t : State}
    (hi : isOperation i = true) (hs : P s) (ht : exec i s = .next t) : P t := by
  cases i with
  | beginOp cfgOk now =>
    simp only [exec, execBegin, Host.Outcome.next.injEq] at ht
    subst ht
    split
    · exact hs
    · next hf =>
      split
      · exact h.settlePins (by simpa using hf) (h.same s _ (by simp [sameBus]) hs) _
      · exact h.config _ hs
  | endOp =>
    simp only [exec, execEnd, Host.Outcome.next.injEq] at ht
    subst ht
    split
    · next hr =>
      exact h.settlePins (s := (s.accept .lifecycle).clearVoices) (fault_of_running hr)
        (h.clearVoices (h.accept hs _)) _
    · exact hs
  | setTone osc f => exact h.directToneWrite (fun i e => e ▸ .divisor i _) hs ht
  | setToneAtt osc level => exact h.directToneWrite (fun i e => e ▸ .toneAtt i _) hs ht
  | muteTone osc => exact h.directToneWrite (fun i e => e ▸ .toneAtt i _) hs ht
  | setNoise ntype shift => exact h.directWrite (.noiseCtl _ _) hs ht
  | setNoiseAtt level => exact h.directWrite (.noiseAtt _) hs ht
  | muteNoise => exact h.directWrite (.noiseAtt _) hs ht
  | playNote f duration cfg index =>
    simp only [exec, execPlayNote, Host.Outcome.next.injEq] at ht
    subst ht
    split
    · cases hq : playTarget s index with
      | some t => rw [startNote_target hq]; exact h.complete (h.setVoice hs _ _)
      | none => rw [startNote_dropped hq]; exact h.complete hs
    · exact hs
  | tick now =>
    simp only [exec, execTick, Host.Outcome.next.injEq] at ht
    subst ht
    split
    · next hr =>
      exact h.finish (h.voiceLoop _ _ (fault_of_running hr) (h.same s _ (by simp [sameBus]) hs))
    · exact hs
  | reserved9 => cases ht; exact hs
  | reserved10 => cases ht; exact hs
  | reserved11 => cases ht; exact hs
  | reserved12 => cases ht; exact hs
  | reserved13 => cases ht; exact hs
  | reserved14 => cases ht; exact hs
  | reserved15 => cases ht; exact hs
  | toneDivLo osc lo => cases hi
  | toneDivHi hi' => cases hi
  | toneAtt osc level => cases hi
  | noiseCtl shift ntype => cases hi
  | noiseAtt level => cases hi
  | writeToneRegister osc => cases hi
  | writeNoiseRegister => cases hi
  | writeFrequencyLow lo => cases hi
  | writeFrequencyHigh hi' => cases hi
  | writeAttenuation level => cases hi
  | writeNoiseControl ntype shift => cases hi
  | latch => cases hi

/-- Every operation answers a next state, in every state. -/
theorem exec_operation_next {i : Instr} (s : State) (hi : isOperation i = true) :
    ∃ t, exec i s = .next t := by
  cases i with
  | setTone osc f => simp only [exec, execSetTone, directToneWrite, directWrite]; split <;> exact ⟨_, rfl⟩
  | setToneAtt osc level =>
    simp only [exec, execSetToneAtt, directToneWrite, directWrite]; split <;> exact ⟨_, rfl⟩
  | muteTone osc => simp only [exec, execMuteTone, directToneWrite, directWrite]; split <;> exact ⟨_, rfl⟩
  | beginOp cfgOk now => exact ⟨_, rfl⟩
  | endOp => exact ⟨_, rfl⟩
  | setNoise ntype shift => exact ⟨_, rfl⟩
  | setNoiseAtt level => exact ⟨_, rfl⟩
  | muteNoise => exact ⟨_, rfl⟩
  | playNote f duration cfg index => exact ⟨_, rfl⟩
  | tick now => exact ⟨_, rfl⟩
  | reserved9 => exact ⟨_, rfl⟩
  | reserved10 => exact ⟨_, rfl⟩
  | reserved11 => exact ⟨_, rfl⟩
  | reserved12 => exact ⟨_, rfl⟩
  | reserved13 => exact ⟨_, rfl⟩
  | reserved14 => exact ⟨_, rfl⟩
  | reserved15 => exact ⟨_, rfl⟩
  | toneDivLo osc lo => cases hi
  | toneDivHi hi' => cases hi
  | toneAtt osc level => cases hi
  | noiseCtl shift ntype => cases hi
  | noiseAtt level => cases hi
  | writeToneRegister osc => cases hi
  | writeNoiseRegister => cases hi
  | writeFrequencyLow lo => cases hi
  | writeFrequencyHigh hi' => cases hi
  | writeAttenuation level => cases hi
  | writeNoiseControl ntype shift => cases hi
  | latch => cases hi

end Sys2Proof.Machine
end

