-- ==== Sys2Proof/Laws/PerInstr.lean ====
section
/-! SUPPORT. One statement for each instruction: the word the encoder writes lies in the row that
spec/opcode_table.json gives the instruction. -/

namespace Sys2Proof.Laws

open Sys2Proof

/-- The bits of a raw word as the opcode table numbers them: a command's op code, a tick's timestamp, a
bus byte, a pin step's pins. -/
def number : RawWord → Nat
  | .cmd r _ _ => r.op.toNat
  | .tick now => now.toNat
  | .bus b => b.toNat
  | .pin _ b => b.toNat

/-- A row of the opcode table: its mask, match and width in bits. -/
structure Row where
  mask  : Nat
  bits  : Nat
  width : Nat
deriving DecidableEq, Repr

/-- The number of a raw word lies in a row. -/
def Row.has (r : Row) (w : RawWord) : Prop :=
  number w &&& r.mask = r.bits ∧ number w < 2 ^ r.width

/-- The row of each instruction (spec/opcode_table.json). -/
def rowOf : Instr → Row
  | .beginOp _ _ => { mask := 0xF, bits := 0x0, width := 4 }
  | .endOp => { mask := 0xF, bits := 0x1, width := 4 }
  | .setTone _ _ => { mask := 0xF, bits := 0x2, width := 4 }
  | .setToneAtt _ _ => { mask := 0xF, bits := 0x3, width := 4 }
  | .muteTone _ => { mask := 0xF, bits := 0x4, width := 4 }
  | .setNoise _ _ => { mask := 0xF, bits := 0x5, width := 4 }
  | .setNoiseAtt _ => { mask := 0xF, bits := 0x6, width := 4 }
  | .muteNoise => { mask := 0xF, bits := 0x7, width := 4 }
  | .playNote _ _ _ _ => { mask := 0xF, bits := 0x8, width := 4 }
  | .reserved9 => { mask := 0xF, bits := 0x9, width := 4 }
  | .reserved10 => { mask := 0xF, bits := 0xA, width := 4 }
  | .reserved11 => { mask := 0xF, bits := 0xB, width := 4 }
  | .reserved12 => { mask := 0xF, bits := 0xC, width := 4 }
  | .reserved13 => { mask := 0xF, bits := 0xD, width := 4 }
  | .reserved14 => { mask := 0xF, bits := 0xE, width := 4 }
  | .reserved15 => { mask := 0xF, bits := 0xF, width := 4 }
  | .tick _ => { mask := 0x0, bits := 0x0, width := 32 }
  | .toneDivLo _ _ => { mask := 0x90, bits := 0x80, width := 8 }
  | .toneDivHi _ => { mask := 0xC0, bits := 0x00, width := 8 }
  | .toneAtt _ _ => { mask := 0x90, bits := 0x90, width := 8 }
  | .noiseCtl _ _ => { mask := 0xF8, bits := 0xE0, width := 8 }
  | .noiseAtt _ => { mask := 0xF0, bits := 0xF0, width := 8 }
  | .writeToneRegister _ => { mask := 0x90, bits := 0x80, width := 8 }
  | .writeNoiseRegister => { mask := 0xF0, bits := 0xE0, width := 8 }
  | .writeFrequencyLow _ => { mask := 0x80, bits := 0x80, width := 8 }
  | .writeFrequencyHigh _ => { mask := 0x80, bits := 0x00, width := 8 }
  | .writeAttenuation _ => { mask := 0x10, bits := 0x10, width := 8 }
  | .writeNoiseControl _ _ => { mask := 0x00, bits := 0x00, width := 8 }
  | .latch => { mask := 0x00, bits := 0x00, width := 8 }

/-- The encoder's word of a well-formed instruction lies in the instruction's own row. -/
def TableRow.Statement (i : Instr) : Prop := i.wellFormed = true → (rowOf i).has (encode i)

theorem TableRow.beginOp (cfgOk : Bool) (now : Time)
    : TableRow.Statement (.beginOp cfgOk now) := fun _ => by
  simp [Row.has, rowOf, encode, number, CmdRecord.ofOp]

theorem TableRow.endOp : TableRow.Statement (.endOp) := fun _ => by
  simp [Row.has, rowOf, encode, encodeOp, number, CmdRecord.ofOp]

theorem TableRow.setTone (osc : Osc) (freq : Freq)
    : TableRow.Statement (.setTone osc freq) := fun _ => by
  simp [Row.has, rowOf, encode, number, CmdRecord.ofOp]

theorem TableRow.setToneAtt (osc : Osc) (level : Att)
    : TableRow.Statement (.setToneAtt osc level) := fun _ => by
  simp [Row.has, rowOf, encode, number, CmdRecord.ofOp]

theorem TableRow.muteTone (osc : Osc) : TableRow.Statement (.muteTone osc) := fun _ => by
  simp [Row.has, rowOf, encode, number, CmdRecord.ofOp]

theorem TableRow.setNoise (ntype : BitVec 1) (shift : BitVec 2)
    : TableRow.Statement (.setNoise ntype shift) := fun _ => by
  simp [Row.has, rowOf, encode, number, CmdRecord.ofOp]

theorem TableRow.setNoiseAtt (level : Att) : TableRow.Statement (.setNoiseAtt level) := fun _ => by
  simp [Row.has, rowOf, encode, number, CmdRecord.ofOp]

theorem TableRow.muteNoise : TableRow.Statement (.muteNoise) := fun _ => by
  simp [Row.has, rowOf, encode, encodeOp, number, CmdRecord.ofOp]

theorem TableRow.playNote (freq : Freq) (duration : Time) (cfg : VoiceConfig) (index : Osc)
    : TableRow.Statement (.playNote freq duration cfg index) := fun _ => by
  simp [Row.has, rowOf, encode, number, CmdRecord.ofOp]

theorem TableRow.reserved9 : TableRow.Statement (.reserved9) := fun _ => by
  simp [Row.has, rowOf, encode, encodeOp, number, CmdRecord.ofOp]

theorem TableRow.reserved10 : TableRow.Statement (.reserved10) := fun _ => by
  simp [Row.has, rowOf, encode, encodeOp, number, CmdRecord.ofOp]

theorem TableRow.reserved11 : TableRow.Statement (.reserved11) := fun _ => by
  simp [Row.has, rowOf, encode, encodeOp, number, CmdRecord.ofOp]

theorem TableRow.reserved12 : TableRow.Statement (.reserved12) := fun _ => by
  simp [Row.has, rowOf, encode, encodeOp, number, CmdRecord.ofOp]

theorem TableRow.reserved13 : TableRow.Statement (.reserved13) := fun _ => by
  simp [Row.has, rowOf, encode, encodeOp, number, CmdRecord.ofOp]

theorem TableRow.reserved14 : TableRow.Statement (.reserved14) := fun _ => by
  simp [Row.has, rowOf, encode, encodeOp, number, CmdRecord.ofOp]

theorem TableRow.reserved15 : TableRow.Statement (.reserved15) := fun _ => by
  simp [Row.has, rowOf, encode, encodeOp, number, CmdRecord.ofOp]

theorem TableRow.tick (now : Time) : TableRow.Statement (.tick now) := fun _ =>
  ⟨by simp [rowOf], now.isLt⟩

theorem TableRow.toneDivLo (osc : Osc) (lo : BitVec 4) : TableRow.Statement (.toneDivLo osc lo) := by
  revert osc lo; unfold TableRow.Statement Row.has; decide +kernel

theorem TableRow.toneDivHi (hi : BitVec 6) : TableRow.Statement (.toneDivHi hi) := by
  revert hi; unfold TableRow.Statement Row.has; decide +kernel

theorem TableRow.toneAtt (osc : Osc) (level : Att) : TableRow.Statement (.toneAtt osc level) := by
  revert osc level; unfold TableRow.Statement Row.has; decide +kernel

theorem TableRow.noiseCtl (shift : BitVec 2) (ntype : BitVec 1)
    : TableRow.Statement (.noiseCtl shift ntype) := by
  revert shift ntype; unfold TableRow.Statement Row.has; decide +kernel

theorem TableRow.noiseAtt (level : Att) : TableRow.Statement (.noiseAtt level) := by
  revert level; unfold TableRow.Statement Row.has; decide +kernel

theorem TableRow.writeToneRegister (osc : Osc) : TableRow.Statement (.writeToneRegister osc) := by
  revert osc; unfold TableRow.Statement Row.has; decide +kernel

theorem TableRow.writeNoiseRegister : TableRow.Statement (.writeNoiseRegister) := fun _ => by
  simp [Row.has, rowOf, encode, number]

theorem TableRow.writeFrequencyLow (lo : BitVec 4) : TableRow.Statement (.writeFrequencyLow lo) := by
  revert lo; unfold TableRow.Statement Row.has; decide +kernel

theorem TableRow.writeFrequencyHigh (hi : BitVec 6) : TableRow.Statement (.writeFrequencyHigh hi) := by
  revert hi; unfold TableRow.Statement Row.has; decide +kernel

theorem TableRow.writeAttenuation (level : Att) : TableRow.Statement (.writeAttenuation level) := by
  revert level; unfold TableRow.Statement Row.has; decide +kernel

theorem TableRow.writeNoiseControl (ntype : BitVec 1) (shift : BitVec 2)
    : TableRow.Statement (.writeNoiseControl ntype shift) := by
  revert ntype shift; unfold TableRow.Statement Row.has; decide +kernel

theorem TableRow.latch : TableRow.Statement (.latch) := fun _ => by
  simp [Row.has, rowOf, encode, number]

end Sys2Proof.Laws
end

