-- ==== Sys2Proof/Laws/Step.lean ====
section
/-! SUPPORT. What a step from a quiescent state is: nothing, or one operation on the accepted state, and
then the environment's frame. -/

namespace Sys2Proof.Machine

open Sys2Proof

/-- From IDLE only operations are fetched: a command or a tick. -/
theorem decodeCmd_isOperation (r : CmdRecord) (cfgOk : Bool) (now : Time) :
    isOperation (decodeCmd r cfgOk now) = true := by
  have h : r.op.toNat < 16 := r.op.isLt
  unfold decodeCmd
  generalize r.op.toNat = k at *
  interval_cases k <;> rfl

/-- Taking a request from a port changes the inputs only. -/
def sameButInputs (s t : State) : Prop := t = { s with inputs := t.inputs }

/-- The requests an idle, ready CORE can accept: an operation, run on a state that differs in the inputs
only, whose pending answers and script are the same. -/
theorem fetch_quiescent {s s' : State} {w : RawWord} (hq : s.quiescent) (h : s.fetch = some (w, s')) :
    ∃ i, decode w = .ok i ∧ isOperation i = true ∧ sameButInputs s s' ∧
      s'.inputs.ioFail = s.inputs.ioFail ∧ s'.inputs.script = s.inputs.script := by
  obtain ⟨hseq, hbusy, -⟩ := hq
  simp only [State.fetch, hseq, State.ready, hbusy, Bool.not_false, if_true,
    State.acceptRequest] at h
  split at h
  · split at h
    · cases h; exact ⟨_, rfl, rfl, rfl, rfl, rfl⟩
    · cases h; exact ⟨_, rfl, decodeCmd_isOperation _ _ _, rfl, rfl, rfl⟩
  · split at h
    · cases h; exact ⟨_, rfl, rfl, rfl, rfl, rfl⟩
    · cases h

/-- A step from a quiescent state: idle, or one operation from acceptance to its end; then the
environment's frame lands (R11). -/
theorem step_quiescent {s : State} (hq : s.quiescent) :
    (s.fetch = none ∧ step s = .next s.arrive) ∨
    ∃ i s' u, isOperation i = true ∧ sameButInputs s s' ∧
      s'.inputs.ioFail = s.inputs.ioFail ∧ s'.inputs.script = s.inputs.script ∧
      exec i s' = .next u ∧ step s = .next u.arrive := by
  cases hf : s.fetch with
  | none => exact .inl ⟨rfl, by simp [step, hf]⟩
  | some p =>
    obtain ⟨w, s'⟩ := p
    obtain ⟨i, hd, hi, hs, ha, hc⟩ := fetch_quiescent hq hf
    obtain ⟨u, hu⟩ := exec_operation_next s' hi
    exact .inr ⟨i, s', u, hi, hs, ha, hc, hu, by simp [step, hf, hd, hu, arriveAfter]⟩

/-- A property that holds of every reset state and does not look at the inputs survives the
environment's frame. -/
theorem arrive_keeps {P : State → Prop} (hreset : ∀ s : State, P s.hardReset)
    (hinputs : ∀ s t, sameButInputs s t → P s → P t) {s : State} (hs : P s) : P s.arrive := by
  unfold State.arrive
  split
  · exact hs
  · dsimp only
    split
    · exact hreset _
    · exact hinputs _ _ rfl hs

/-- A property the bus side decides, kept by operations and by reset, is kept by every step from a
quiescent state. -/
theorem step_keeps {P : State → Prop} (h : BusKept P) (hreset : ∀ s : State, P s.hardReset)
    (hinputs : ∀ s t, sameButInputs s t → P s → P t) {s t : State} (hq : s.quiescent) (hs : P s)
    (ht : step s = .next t) : P t := by
  obtain ⟨-, hn⟩ | ⟨i, s', u, hi, hss, -, -, hu, hn⟩ := step_quiescent hq
  · rw [hn] at ht; cases ht; exact arrive_keeps hreset hinputs hs
  · rw [hn] at ht; cases ht
    exact arrive_keeps hreset hinputs (exec_operation_keeps h hi (hinputs _ _ hss hs) hu)

end Sys2Proof.Machine
end

