-- ==== Sys2Proof/Laws/Tick.lean ====
section
/-! SUPPORT. What the parts of a tick can do: whatever the pin driver answers (`LoopFrame`,
`voiceLoop_voice`), and in a fault-free run (`processVoice_answersOk`). -/

namespace Sys2Proof.Machine

open Sys2Proof

/-! ## Whatever the answers -/

/-- What the parts of a tick never touch, but for the voices of `touched`. -/
structure LoopFrame (s t : State) (touched : List Slot) : Prop where
  params : t.params = s.params
  noise : t.noisePlaying = s.noisePlaying
  last : t.lastTick = s.lastTick
  started : t.started = s.started
  inputs : t.inputs = { s.inputs with ioFail := t.inputs.ioFail }
  others : ∀ j, j ∉ touched → t.voice j = s.voice j

theorem LoopFrame.refl (s : State) (l : List Slot) : LoopFrame s s l :=
  ⟨rfl, rfl, rfl, rfl, rfl, fun _ _ => rfl⟩

theorem LoopFrame.trans {a b c : State} {l m : List Slot} (h : LoopFrame a b l) (k : LoopFrame b c m) :
    LoopFrame a c (l ++ m) :=
  ⟨k.1.trans h.1, k.2.trans h.2, k.3.trans h.3, k.4.trans h.4, by rw [k.5, h.5], fun j hj => by
    simp only [List.mem_append, not_or] at hj; rw [k.6 j hj.2, h.6 j hj.1]⟩

theorem LoopFrame.mono {a b : State} {l m : List Slot} (h : LoopFrame a b l) (hm : ∀ j ∈ l, j ∈ m) :
    LoopFrame a b m := ⟨h.1, h.2, h.3, h.4, h.5, fun j hj => h.6 j fun hl => hj (hm j hl)⟩

theorem LoopFrame.moveTo (s : State) (q : Place) : LoopFrame s (s.moveTo q) [] :=
  ⟨rfl, rfl, rfl, rfl, rfl, fun _ _ => rfl⟩

theorem LoopFrame.setVoice (s : State) (i : Slot) (v : Voice) : LoopFrame s (s.setVoice i v) [i] :=
  ⟨rfl, rfl, rfl, rfl, rfl, fun j hj => State.voice_setVoice_ne s v (by simpa using hj)⟩

theorem LoopFrame.andThen {s : State} {p : Progress} {f : State → Progress} {l m : List Slot}
    (hp : LoopFrame s p.state l) (hf : ∀ u, p = .going u → LoopFrame u (f u).state m) :
    LoopFrame s (p.andThen f).state (l ++ m) := by
  cases p with
  | going u => exact hp.trans (hf u rfl)
  | aborted u => exact hp.mono fun j hj => by simp [hj]

/-- The two states differ off the bus in the driver's answers only. -/
theorem sameOffBus.inputs {s t : State} (h : sameOffBus s t) :
    t.inputs = { s.inputs with ioFail := t.inputs.ioFail } := by
  obtain ⟨-, -, -, -, -, h1, h2, h3, h4, h5, h6⟩ := h
  generalize t.inputs = a at *
  generalize s.inputs = b at *
  cases a; cases b; simp only at *; subst_vars; rfl

/-- Driven pins touch nothing off the bus, whatever the answers. -/
theorem drivePins_sameOffBus (es : List PinEvent) (s : State) :
    sameOffBus s (drivePins es s).state := by
  obtain h | ⟨pre, e, post, -, -, h⟩ := drivePins_cases es s
  · rw [h]; exact (applyEvents_frame es s).1
  · rw [h]; exact (applyEvents_frame pre s).1.trans (by simp [sameOffBus])

theorem LoopFrame.drive (es : List PinEvent) (s : State) : LoopFrame s (drivePins es s).state [] := by
  have h := drivePins_sameOffBus es s
  exact ⟨h.1, h.2.2.1, h.2.2.2.1, h.2.2.2.2.1, h.inputs, fun j _ => by simp [State.voice, h.2.1]⟩

theorem modulationStep_frame (i : Slot) (s : State) : LoopFrame s (modulationStep i s).state [] :=
  LoopFrame.andThen (l := []) (m := []) (.drive _ _) fun u _ =>
    (LoopFrame.moveTo u _).trans (.drive _ _)

theorem envelopeStep_frame (i : Slot) (dt : Time) (s : State) :
    LoopFrame s (envelopeStep i dt s).state [i] ∧
    (envelopeStep i dt s).state.voice i = envelopeVoice dt (s.voice i) := by
  constructor
  · exact ((LoopFrame.moveTo s _).trans (.setVoice _ i _)).trans (.drive _ _)
  · unfold envelopeStep
    rw [(LoopFrame.drive _ _).6 i (by simp)]
    exact State.voice_setVoice_same (s.moveTo _) i _

/-- Processing a voice ages it and, unless a pin failure in its divisor writes ends the tick, steps its
envelope; no other voice changes. -/
theorem processVoice_frame (dt : Time) (i : Slot) (s : State) :
    LoopFrame s (processVoice dt i s).state [i] ∧
    (∀ u, processVoice dt i s = .going u →
      u.voice i = envelopeVoice dt (agedVoice dt (s.voice i))) ∧
    ((processVoice dt i s).state.voice i = agedVoice dt (s.voice i) ∨
      (processVoice dt i s).state.voice i = envelopeVoice dt (agedVoice dt (s.voice i))) := by
  have m := modulationStep_frame i
    ((s.moveTo (.voice i .vibrato)).setVoice i (agedVoice dt (s.voice i)))
  have mv := m.6 i (by simp)
  rw [State.voice_setVoice_same] at mv
  refine ⟨(LoopFrame.andThen (m := [i]) (((LoopFrame.moveTo s _).trans (.setVoice _ i _)).trans m)
    fun u _ =>
    (envelopeStep_frame i dt u).1).mono (by simp), ?_⟩
  unfold processVoice
  cases hq : modulationStep i
      ((s.moveTo (.voice i .vibrato)).setVoice i (agedVoice dt (s.voice i))) with
  | going u =>
    rw [hq] at mv
    have he : (envelopeStep i dt u).state.voice i = envelopeVoice dt (agedVoice dt (s.voice i)) := by
      rw [(envelopeStep_frame i dt u).2]; exact congrArg _ mv
    refine ⟨fun w hw => ?_, .inr he⟩
    rw [Progress.andThen_going] at hw
    rw [hw] at he; exact he
  | aborted u =>
    rw [hq] at mv
    exact ⟨fun w hw => (by cases hw), .inl mv⟩

theorem voiceLoop_frame (dt : Time) (is : List Slot) (s : State) :
    LoopFrame s (voiceLoop dt is s).state is := by
  induction is generalizing s with
  | nil => exact .refl s _
  | cons i is ih =>
    simp only [voiceLoop]
    split
    · exact LoopFrame.andThen (l := [i]) (m := is) (processVoice_frame dt i s).1 fun u _ => ih u
    · split
      · exact .refl s _
      · exact (ih s).mono fun j hj => by simp [hj]

/-- What the loop may leave in a voice: as it was, aged only (a pin failure ended the tick), or aged and
its envelope stepped; without a failure never aged only. -/
theorem voiceLoop_voice (dt : Time) {is : List Slot} (hn : is.Nodup) (s : State) (j : Slot) :
    let p := voiceLoop dt is s
    p.state.voice j = s.voice j ∨
    ((s.voice j).playing = true ∧
      (p.state.voice j = envelopeVoice dt (agedVoice dt (s.voice j)) ∨
        (p.state.voice j = agedVoice dt (s.voice j) ∧ p = .aborted p.state))) := by
  dsimp only
  induction is generalizing s with
  | nil => exact .inl rfl
  | cons i is ih =>
    simp only [voiceLoop]
    split
    · next hpl =>
      obtain ⟨hf, hg, hor⟩ := processVoice_frame dt i s
      cases hq : processVoice dt i s with
      | aborted u =>
        rw [hq] at hf hor
        by_cases hj : j = i
        · subst hj; exact .inr ⟨hpl, hor.symm.imp id fun h => ⟨h, rfl⟩⟩
        · exact .inl (hf.6 j (by simpa using hj))
      | going u =>
        rw [hq] at hf
        simp only [Progress.andThen_going, Progress.state_going] at hf ⊢
        by_cases hj : j = i
        · subst hj
          rw [(voiceLoop_frame dt is u).6 j (List.nodup_cons.1 hn).1]
          exact .inr ⟨hpl, .inl (hg u hq)⟩
        · have h := ih (List.nodup_cons.1 hn).2 u
          rw [hf.6 j (by simpa using hj)] at h
          exact h
    · split
      · exact .inl rfl
      · exact ih (List.nodup_cons.1 hn).2 s

/-- With no voice playing the loop does nothing. -/
theorem voiceLoop_idle (dt : Time) (is : List Slot) {s : State} (h : ∀ i, (s.voice i).playing = false) :
    voiceLoop dt is s = .going s := by
  induction is with
  | nil => rfl
  | cons i is ih => simp [voiceLoop, h i, ih]

/-! ## An aborted operation is in the fault state (R214) -/

/-- The state an abort leaves: faulted, not busy, sequencer IDLE. -/
def State.stoppedByFault (s : State) : Prop := s.fault = true ∧ s.seq = .idle ∧ s.busy = false

theorem drivePins_aborted {es : List PinEvent} {s t : State} (h : drivePins es s = .aborted t) :
    t.stoppedByFault := by
  obtain hg | ⟨pre, e, post, -, -, ha⟩ := drivePins_cases es s
  · rw [hg] at h; cases h
  · rw [ha] at h; cases h; exact ⟨rfl, rfl, rfl⟩

theorem andThen_aborted {p : Progress} {f : State → Progress} {t : State}
    (h : p.andThen f = .aborted t) : p = .aborted t ∨ ∃ u, f u = .aborted t := by
  cases p with
  | going u => exact .inr ⟨u, h⟩
  | aborted u => exact .inl h

theorem processVoice_aborted {dt : Time} {i : Slot} {s t : State}
    (h : processVoice dt i s = .aborted t) : t.stoppedByFault := by
  obtain h | ⟨u, h⟩ := andThen_aborted h
  · obtain h | ⟨u, h⟩ := andThen_aborted h <;> exact drivePins_aborted h
  · exact drivePins_aborted h

theorem voiceLoop_aborted {dt : Time} {is : List Slot} {s t : State}
    (h : voiceLoop dt is s = .aborted t) : t.stoppedByFault := by
  induction is generalizing s with
  | nil => cases h
  | cons i is ih =>
    simp only [voiceLoop] at h
    split at h
    · obtain h | ⟨u, h⟩ := andThen_aborted h
      · exact processVoice_aborted h
      · exact ih h
    · split at h
      · cases h
      · exact ih h

/-! ## In a fault-free run -/

theorem answersOk_accept {s : State} (h : s.answersOk) (q : Place) : (s.accept q).answersOk := h

theorem answersOk_moveTo {s : State} (h : s.answersOk) (q : Place) : (s.moveTo q).answersOk := h

theorem answersOk_setVoice {s : State} (h : s.answersOk) (i : Slot) (v : Voice) :
    (s.setVoice i v).answersOk := h

theorem answersOk_setLastTick {s : State} (h : s.answersOk) (now : Time) :
    (s.setLastTick now).answersOk := h

/-- In a fault-free run a processed voice has its five bytes written and its state stepped; nothing but
the sequencer, the pins, the pin log, the trace, the answers and that voice changes (R193). -/
theorem processVoice_answersOk (dt : Time) (i : Slot) {s : State} (h : s.answersOk) (hp : s.pinsIdle) :
    ∃ t, processVoice dt i s = .going t ∧ t.answersOk ∧ t.pinsIdle ∧ sameFlags s t ∧
      t.trace = s.trace ++ processedBytes s dt i ∧
      t.voice i = envelopeVoice dt (agedVoice dt (s.voice i)) := by
  have h1 := answersOk_setVoice (answersOk_moveTo h (.voice i .vibrato)) i (agedVoice dt (s.voice i))
  unfold processVoice modulationStep
  dsimp only
  rw [drivePins_answersOk h1, applyEvents_divisor (by exact hp.1)]
  simp only [Progress.andThen_going]
  generalize hu : ((s.moveTo (.voice i .vibrato)).setVoice i (agedVoice dt (s.voice i))).wrote _ _ = u
  have h2 : u.answersOk := hu ▸ answersOk_wrote h1 _ _
  rw [drivePins_answersOk (answersOk_moveTo h2 _), applyEvents_divisor (by subst hu; rfl)]
  simp only [Progress.andThen_going, envelopeStep]
  generalize hw : (u.moveTo (.voice i .tremolo)).wrote _ _ = w
  have h3 : w.answersOk := hw ▸ answersOk_wrote (answersOk_moveTo h2 _) _ _
  rw [drivePins_answersOk (answersOk_setVoice (answersOk_moveTo h3 _) _ _),
    applyEvents_toneAtt (by subst hw; rfl)]
  refine ⟨_, rfl, answersOk_wrote (answersOk_setVoice (answersOk_moveTo h3 _) _ _) _ _, ⟨rfl, rfl⟩,
    ?_, ?_, ?_⟩ <;> subst hw <;> subst hu
  · simp [State.wrote, sameFlags]
  · simp [State.wrote, State.moveTo, processedBytes, voiceBytes, State.voice, State.setVoice]
  · simp [State.wrote, State.moveTo, State.voice, State.setVoice]

end Sys2Proof.Machine
end

