-- ==== Sys2Proof/Laws/Times.lean ====
section
/-! SUPPORT. Times as natural numbers: the minimum, what a counter absorbs and passes on, phase
selection, and the quantizer's range. -/

namespace Sys2Proof.Machine

open Sys2Proof

theorem toNat_minTime (a b : Time) : (minTime a b).toNat = min a.toNat b.toNat := by
  unfold minTime
  split <;> next h => rw [BitVec.le_def] at h; omega

theorem Time.toNat_sub {a b : Time} (h : b.toNat ≤ a.toNat) : (a - b).toNat = a.toNat - b.toNat :=
  BitVec.toNat_sub_of_le (BitVec.le_def.2 h)

/-- A counter loses what it can of the time (R152). -/
theorem toNat_counterAfter (rem c : Time) : (counterAfter rem c).toNat = c.toNat - rem.toNat := by
  have h := toNat_minTime rem c
  rw [counterAfter, Time.toNat_sub (by omega)]; omega

/-- The carry is what a counter could not absorb (R152). -/
theorem toNat_carryAfter (rem c : Time) : (carryAfter rem c).toNat = rem.toNat - c.toNat := by
  have h := toNat_minTime rem c
  rw [carryAfter, Time.toNat_sub (by omega)]; omega

theorem Time.ne_zero_iff {t : Time} : t ≠ 0 ↔ 0 < t.toNat := by
  rw [Nat.pos_iff_ne_zero, ne_eq, ne_eq, not_iff_not, ← BitVec.toNat_inj]; rfl

/-- Floor division by a positive number is the quotient (R16). -/
theorem floorDiv_pos {a b : ℕ} (h : 0 < b) : floorDiv a b = a / b := if_neg (by omega)

/-- Which phase is selected, by the counters (R151). -/
theorem selectPhase_iff (p : PhaseCounters) :
    (selectPhase p = .attack ↔ 0 < p.attackLeft.toNat) ∧
    (selectPhase p = .decay ↔ p.attackLeft = 0 ∧ 0 < p.decayLeft.toNat) ∧
    (selectPhase p = .release ↔
      p.attackLeft = 0 ∧ p.decayLeft = 0 ∧ p.sustainLeft = 0 ∧ 0 < p.releaseLeft.toNat) := by
  unfold selectPhase
  simp only [← Time.ne_zero_iff]
  split_ifs <;> simp_all

theorem minFreq_pos (clock : ℕ+) : 0 < minFreq clock := by
  have : (0 : Rat) < ((clock : ℕ) : Rat) := by exact_mod_cast clock.pos
  unfold minFreq; positivity

theorem minFreq_le_maxFreq (clock : ℕ+) : minFreq clock ≤ maxFreq clock := by
  have : (0 : Rat) < ((clock : ℕ) : Rat) := by exact_mod_cast clock.pos
  unfold minFreq maxFreq
  exact div_le_div_of_nonneg_left this.le (by norm_num) (by norm_num)

/-- The clamp lands between the two bounds (R100). -/
theorem clampFreq_mem (clock : ℕ+) (f : Freq) :
    minFreq clock ≤ clampFreq clock f ∧ clampFreq clock f ≤ maxFreq clock := by
  have h := minFreq_le_maxFreq clock
  unfold clampFreq
  split
  · exact ⟨le_refl _, h⟩
  · split
    · exact ⟨h, le_refl _⟩
    · next h1 h2 => exact ⟨not_lt.1 h1, not_lt.1 h2⟩

theorem clampFreq_mono (clock : ℕ+) {f g : Freq} (h : f ≤ g) : clampFreq clock f ≤ clampFreq clock g := by
  have hm := minFreq_le_maxFreq clock
  unfold clampFreq
  split_ifs <;> grind

end Sys2Proof.Machine
end

