-- ==== Sys2Proof/Tests/Slice0.lean ====
section
/-! SUPPORT. The model's own tests: ill-formed terms refused, words decoded, one step of each instruction
against spec/95_test_vectors.md, and a witness for the hypotheses of each statement. -/

namespace Sys2Proof.Tests

open Sys2Proof Sys2Proof.Machine

/-! ## Small states -/

/-- The constants of spec/95_test_vectors.md (4 MHz), with a pulse of 32 cycles. -/
def params (earlyStop : Bool) : Config.Params :=
  { masterClockHz := ⟨4000000, by decide⟩, writeCycles := ⟨32, by decide⟩, earlyStop := earlyStop }

/-- A running CORE with nothing playing, right after BEGIN at `now = 0`. -/
def ready : State := { State.reset with params := params true, started := true }

/-- `ready` with the pin driver's answers given. -/
def readyFailing (answers : List Bool) : State :=
  { ready with inputs := { Inputs.reset with ioFail := answers } }

/-- An envelope, with vibrato and tremolo switched off. -/
def env (attack decay : Time) (sustain : Att) (release : Time) : VoiceConfig :=
  { VoiceConfig.zero with
    envelope := { attack := attack, decay := decay, sustain := sustain, release := release } }

/-- A voice just started, on a given state of its counters and elapsed time. -/
def voiceWith (freq : Freq) (cfg : VoiceConfig) (a d s r : Time) (e : Elapsed) : Voice :=
  { config := cfg, baseFrequency := freq, elapsedTime := e, playing := true
    phase := { attackLeft := a, decayLeft := d, sustainLeft := s, releaseLeft := r } }

/-- `ready` with the given voice in slot 0. -/
def sounding (v : Voice) : State := ready.setVoice 0 v

/-- The trace of a next state. -/
def trace (r : Result) : Option (List Byte) :=
  match r with
  | .next s => some s.trace
  | .fault _ => none
  | .refused _ => none

/-- The next state. -/
def after (r : Result) : State :=
  match r with
  | .next s => s
  | .fault _ => State.reset
  | .refused _ => State.reset

/-- A voice as spec/95_test_vectors.md writes it. -/
def shown (v : Voice) : Bool × Nat × Nat × Nat × Nat × Nat :=
  (v.playing, v.phase.attackLeft.toNat, v.phase.decayLeft.toNat, v.phase.sustainLeft.toNat,
    v.phase.releaseLeft.toNat, v.elapsedTime.toNat)

/-! ## WellFormed: each check refuses an ill-formed term (R77, R111) -/

theorem test_wellFormed_refuses_toneDivLo : (Instr.toneDivLo 3 5).wellFormed = false := by decide
theorem test_wellFormed_refuses_toneAtt : (Instr.toneAtt 3 5).wellFormed = false := by decide
theorem test_wellFormed_refuses_writeToneRegister :
    (Instr.writeToneRegister 3).wellFormed = false := by decide
theorem test_wellFormed_accepts_command_osc_3 : (Instr.muteTone 3).wellFormed = true := by decide

/-! ## Decode: words written out from 30_encoding.md -/

/-- The sixteen op codes of R81. -/
theorem test_decode_opcodes :
    [0, 1, 2, 3, 4, 5, 6, 7].map (fun op => decodeCmd (CmdRecord.ofOp op) true 7) =
      [.beginOp true 7, .endOp, .setTone 0 0, .setToneAtt 0 0, .muteTone 0, .setNoise 0 0,
        .setNoiseAtt 0, .muteNoise] ∧
    [8, 9, 10, 11, 12, 13, 14, 15].map (fun op => decodeCmd (CmdRecord.ofOp op) true 7) =
      [.playNote 0 0 VoiceConfig.zero 0, .reserved9, .reserved10, .reserved11, .reserved12, .reserved13,
        .reserved14, .reserved15] := by decide

/-- Each command reads the fields R82 lists. -/
theorem test_decode_operands :
    let r : CmdRecord := { op := 0, osc := 2, level := 9, ntype := 1, shift := 3, freq := 440
                           duration := 77, cfg := env 1 2 3 4 }
    decodeCmd { r with op := 2 } true 7 = .setTone 2 440 ∧
    decodeCmd { r with op := 3 } true 7 = .setToneAtt 2 9 ∧
    decodeCmd { r with op := 4 } true 7 = .muteTone 2 ∧
    decodeCmd { r with op := 5 } true 7 = .setNoise 1 3 ∧
    decodeCmd { r with op := 6 } true 7 = .setNoiseAtt 9 ∧
    decodeCmd { r with op := 8 } true 7 = .playNote 440 77 (env 1 2 3 4) 2 := by decide

/-- A tick's word is its timestamp (R87). -/
theorem test_decode_tick : decode (.tick 0xFFFFFFFE) = .ok (.tick 0xFFFFFFFE) := rfl

/-- The five bus words of R77. -/
theorem test_decode_toneDivLo : decode (.bus 0b11001100) = .ok (.toneDivLo 2 12) := rfl
theorem test_decode_toneDivHi : decode (.bus 0b00010001) = .ok (.toneDivHi 17) := rfl
theorem test_decode_toneAtt : decode (.bus 0b10110100) = .ok (.toneAtt 1 4) := rfl
theorem test_decode_noiseCtl : decode (.bus 0b11100101) = .ok (.noiseCtl 2 1) := rfl
theorem test_decode_noiseAtt : decode (.bus 0b11110111) = .ok (.noiseAtt 7) := rfl

/-- The seven pin steps of R111 to R118, the pins not driven at any level. -/
theorem test_decode_writeToneRegister :
    decode (.pin .toneRegister 0b11001010) = .ok (.writeToneRegister 2) := rfl
theorem test_decode_writeNoiseRegister :
    decode (.pin .noiseRegister 0b11100110) = .ok .writeNoiseRegister := rfl
theorem test_decode_writeFrequencyLow :
    decode (.pin .frequencyLow 0b10101100) = .ok (.writeFrequencyLow 12) := rfl
theorem test_decode_writeFrequencyHigh :
    decode (.pin .frequencyHigh 0b01010001) = .ok (.writeFrequencyHigh 17) := rfl
theorem test_decode_writeAttenuation :
    decode (.pin .attenuation 0b10110100) = .ok (.writeAttenuation 4) := rfl
theorem test_decode_writeNoiseControl :
    decode (.pin .noiseControl 0b11100101) = .ok (.writeNoiseControl 1 2) := rfl
theorem test_decode_latch : decode (.pin .latch 0b01011010) = .ok .latch := rfl

/-- Words no instruction has are rejected by name (R78, R111 to R115). -/
theorem test_decode_rejects :
    decode (.bus 0b01000000) = .error .dataByteBit6 ∧
    decode (.bus 0b11101000) = .error .noiseControlBit3 ∧
    decode (.pin .toneRegister 0b11100000) = .error .pinOscillator ∧
    decode (.pin .toneRegister 0b00000000) = .error .pinPattern ∧
    decode (.pin .noiseRegister 0b11110000) = .error .pinPattern ∧
    decode (.pin .frequencyLow 0b01111111) = .error .pinPattern ∧
    decode (.pin .frequencyHigh 0b10000000) = .error .pinPattern ∧
    decode (.pin .attenuation 0b11101111) = .error .pinPattern :=
  ⟨rfl, rfl, rfl, rfl, rfl, rfl, rfl, rfl⟩

/-- The table's numbers: a tick has 32 bits, a bus byte its own bits (opcode_table.json; log 11). -/
theorem test_decodeTableWord :
    decodeTableWord 32 5 = some (.tick 5) ∧ decodeTableWord 8 0xE5 = some (.noiseCtl 2 1) ∧
    decodeTableWord 8 7 = some .muteNoise := by decide

/-! ## The quantizer (vectors V40) -/

/-- V40-1, V40-7 (a tie), V40-9, V40-12, V40-17 (a tie), V40-21. -/
theorem test_quantize_vectors :
    ([0, 50000 / 409, 220, 440, 250000 / 3, 1000000000] : List Rat).map
      (quantize (params true).masterClockHz) = [1023, 1023, 568, 284, 2, 1] := by decide +kernel

/-! ## One step of each instruction -/

/-- V41-1. -/
theorem test_setTone : trace (exec (.setTone 0 440) ready) = some [0x8C, 0x11] := by decide +kernel
/-- V41-3. -/
theorem test_setTone_osc2 : trace (exec (.setTone 2 440) ready) = some [0xCC, 0x11] := by
  decide +kernel
/-- V41-7. -/
theorem test_setToneAtt : trace (exec (.setToneAtt 1 4) ready) = some [0xB4] := by decide
/-- V41-7's pin events. -/
theorem test_setToneAtt_events :
    (after (exec (.setToneAtt 1 4) ready)).pinLog =
      [.data 7 7 1, .data 6 5 0b01, .data 4 4 0, .data 4 4 1, .data 3 0 0b0100, .weN false,
        .wait (32 / 4000000), .weN true, .data 7 0 0] := by decide +kernel
/-- R30 and R117 in SET_TONE: one transaction complete, `WE_n` low in the second. -/
theorem test_setTone_position :
    let es := (divisorEvents (params true) 0 284).take 12
    (applyEvents es (ready.accept .direct)).seq =
      .inside .direct { complete := 1, step := .lowered } := by decide
/-- V41-9. -/
theorem test_muteTone : trace (exec (.muteTone 1) ready) = some [0xBF] := by decide
/-- V41-13. -/
theorem test_setNoise : trace (exec (.setNoise 1 2) ready) = some [0xE5] := by decide
/-- V41-15. -/
theorem test_setNoiseAtt : trace (exec (.setNoiseAtt 7) ready) = some [0xF7] := by decide
/-- V41-16. -/
theorem test_muteNoise : trace (exec .muteNoise ready) = some [0xFF] := by decide

/-- V41-F1: the pulse of the high byte is not begun. -/
theorem test_failed_pulse :
    let t := after (exec (.setTone 0 440) (readyFailing (List.replicate 10 false ++ [true])))
    t.trace = [0x8C] ∧ t.fault = true ∧ t.faultCause.code = 2 ∧ t.busy = false ∧
    t.weN = true ∧ t.d = 0 ∧ (chipImage t).div0.lo = some 12 ∧ (chipImage t).sel = some 0 := by
  decide +kernel

/-- V45-2. -/
theorem test_begin :
    let t := after (exec (.beginOp true 100) State.reset)
    t.started = true ∧ t.lastTick = 100 ∧ t.trace = [] := by decide
/-- V41-F2. -/
theorem test_begin_configError :
    let t := after (exec (.beginOp false 100) State.reset)
    t.fault = true ∧ t.faultCause.code = 1 ∧ t.started = false ∧ t.pinLog = [] := by decide
/-- V45-4. -/
theorem test_end :
    let t := after (exec .endOp (sounding (voiceWith 440 (env 1 1 1 1) 1 1 98 1 0)))
    t.voices = Voices.zero ∧ t.started = false ∧ t.trace = [] := by decide

/-- V42-3. -/
theorem test_playNote :
    shown ((after (exec (.playNote 1000 5 (env 10 10 4 2) 3) ready)).voice 0) =
      (true, 5, 0, 0, 2, 0) := by decide
/-- V42-2. -/
theorem test_playNote_preempts :
    let t := after (exec (.playNote 880 7 (env 2 3 9 4) 0)
      (sounding (voiceWith 440 (env 1 1 1 1) 1 1 98 1 0)))
    shown (t.voice 0) = (true, 2, 3, 2, 4, 0) ∧ (t.voice 0).baseFrequency = 880 := by decide

/-- V45-5, for each reserved op code. -/
theorem test_reserved :
    ∀ i ∈ [Instr.reserved9, .reserved10, .reserved11, .reserved12, .reserved13, .reserved14, .reserved15],
      exec i (readyFailing [true]) = .next (readyFailing [true]) := by
  intro i hi; fin_cases hi <;> rfl

/-- V43-7: the timestamp wraps. -/
theorem test_tick_wraps :
    let s := { sounding (voiceWith 1000 (env 4 0 0 1) 4 0 6 1 0) with lastTick := 0xFFFFFFFE }
    let t := after (exec (.tick 1) s)
    t.trace = [0x8D, 0x07, 0x8D, 0x07, 0x93] ∧ shown (t.voice 0) = (true, 1, 0, 6, 1, 3) ∧
    t.lastTick = 1 := by decide +kernel

/-- P4, the tick at 7: vibrato and tremolo. -/
theorem test_tick_modulates :
    let cfg := { env 0 0 2 2 with
      vibrato := { delay := 2, amplitude := 20, rise := 4, period := 6 }
      tremolo := { period := 4, bitMask := 3 } }
    let s := { sounding (voiceWith 440 cfg 0 0 2 2 6) with lastTick := 6 }
    trace (exec (.tick 7) s) = some [0x8A, 0x12, 0x8B, 0x12, 0x92] := by decide +kernel

/-- `writeDivisor(2, 1023)`, V41-18, its two words. -/
theorem test_toneDivLo : trace (exec (.toneDivLo 2 15) ready) = some [0xCF] := by decide
theorem test_toneDivHi : trace (exec (.toneDivHi 63) ready) = some [0x3F] := by decide
/-- V41-6. -/
theorem test_toneAtt : trace (exec (.toneAtt 0 0) ready) = some [0x90] := by decide
/-- V41-14. -/
theorem test_noiseCtl : trace (exec (.noiseCtl 3 1) ready) = some [0xE7] := by decide
/-- V41-15. -/
theorem test_noiseAtt : trace (exec (.noiseAtt 7) ready) = some [0xF7] := by decide

/-- The pin steps of V41-7 and V41-13, from all pins high: pins not driven stay (R111 to R118). -/
theorem test_pinSteps :
    let s := { ready with d := 0xFF }
    (after (exec (.writeToneRegister 1) s)).d = 0b10101111 ∧
    (after (exec .writeNoiseRegister s)).d = 0b11101111 ∧
    (after (exec (.writeFrequencyLow 12) s)).d = 0b11111100 ∧
    (after (exec (.writeFrequencyHigh 17) s)).d = 0b01010001 ∧
    (after (exec (.writeAttenuation 4) s)).d = 0b11110100 ∧
    (after (exec (.writeNoiseControl 1 2) s)).d = 0b11111101 := by decide
/-- R116. -/
theorem test_latch :
    let t := after (exec .latch { ready with d := 0xB4 })
    t.trace = [0xB4] ∧ t.d = 0 ∧ t.weN = true := by decide

/-- The first step after reset runs the table's word (log 12): BEGIN with the fields zero fails its
configuration, a bus byte is written, a tick in the stopped state has no effect (V45-1). -/
theorem test_withFetchWord :
    (after (step (State.reset.withFetchWord 8 0))).faultCause = .configError ∧
    (after (step (State.reset.withFetchWord 8 0xF7))).trace = [0xF7] ∧
    (after (step (State.reset.withFetchWord 32 50))).lastTick = 0 := by decide

/-! ## Witnesses: the hypotheses of each statement, all met together

A theorem `test_witness_X` shows a state and operands that meet the hypotheses of `Obligations.X`; a
statement with several clauses has a witness at a boundary of each. -/

theorem test_ready_running : ready.running = true ∧ ready.answersOk ∧ ready.pinsIdle ∧
    ready.quiescent ∧ ready.cutByte = none :=
  ⟨rfl, (fun _ h => by cases h), ⟨rfl, rfl⟩, ⟨rfl, rfl, rfl, rfl⟩, rfl⟩

theorem test_witness_EncodedInstructionDecodesBack : (Instr.toneDivLo 2 15).wellFormed = true ∧
    (Instr.playNote 440 5 (env 1 2 3 4) 3).wellFormed = true := by decide

theorem test_witness_DecodedBusByteEncodesBack : decode (.bus 0xDF) = .ok (.toneAtt 2 15) := rfl

/-- Each clause at the ends of its range of bytes. -/
theorem test_witness_BusByteClasses :
    (∀ b ∈ [0x80#8, 0xCF#8], b &&& 0x90 = 0x80 ∧ field b 5 2 ≠ 3) ∧
    (∀ b ∈ [0x90#8, 0xDF#8], b &&& 0x90 = 0x90 ∧ field b 5 2 ≠ 3) ∧
    (∀ b ∈ [0xE0#8, 0xE7#8], b &&& 0xF8 = 0xE0) ∧ (∀ b ∈ [0xF0#8, 0xFF#8], b &&& 0xF0 = 0xF0) ∧
    (∀ b ∈ [0x00#8, 0x3F#8], b &&& 0xC0 = 0x00) ∧ (∀ b ∈ [0x40#8, 0x7F#8], b &&& 0xC0 = 0x40) ∧
    (∀ b ∈ [0xE8#8, 0xEF#8], b &&& 0xF8 = 0xE8) := by decide

theorem test_witness_QuantizerStaysInRange :
    let c := (params true).masterClockHz
    minFreq c ≤ minFreq c ∧ maxFreq c ≤ maxFreq c ∧ (0 : Freq) ≤ minFreq c ∧
    maxFreq c ≤ (200000 : Freq) := by decide +kernel

theorem test_witness_QuantizerIsMonotone : (440 : Freq) ≤ 880 := by decide +kernel

/-- Both ends of the range, as fractions. -/
theorem test_witness_QuantizerInIntegers :
    let c := (params true).masterClockHz
    (minFreq c ≤ ((4000000 : ℕ) : Rat) / ((32736 : ℕ) : Rat) ∧
      ((4000000 : ℕ) : Rat) / ((32736 : ℕ) : Rat) ≤ maxFreq c) ∧
    (minFreq c ≤ ((125000 : ℕ) : Rat) / ((1 : ℕ) : Rat) ∧
      ((125000 : ℕ) : Rat) / ((1 : ℕ) : Rat) ≤ maxFreq c) := by decide +kernel

theorem test_witness_QuantizerCorners : (0 : Freq) ≤ 0 ∧ (-5 : Freq) ≤ 0 ∧
    (1 ≤ 1 ∧ 1 ≤ 1022) ∧ (1 ≤ 1022 ∧ 1022 ≤ 1022) := by decide +kernel

theorem test_witness_QuantizerInvertsDivisor : (1 ≤ 1 ∧ 1 ≤ 1023) ∧ (1 ≤ 1023 ∧ 1023 ≤ 1023) := by
  decide

theorem test_witness_SetToneWritesDivisor : ready.running = true ∧ ready.answersOk ∧
    ready.pinsIdle ∧ (0 : Osc) ≠ 3 ∧ (2 : Osc) ≠ 3 :=
  ⟨rfl, test_ready_running.2.1, ⟨rfl, rfl⟩, by decide, by decide⟩

theorem test_witness_ToneAttenuationWrites : ready.running = true ∧ ready.answersOk ∧
    ready.pinsIdle ∧ (2 : Osc) ≠ 3 := ⟨rfl, test_ready_running.2.1, ⟨rfl, rfl⟩, by decide⟩

theorem test_witness_NoiseWrites : ready.running = true ∧ ready.answersOk ∧ ready.pinsIdle :=
  ⟨rfl, test_ready_running.2.1, ⟨rfl, rfl⟩⟩

theorem test_witness_MuteToneSilencesTheImage : ready.running = true ∧ ready.answersOk ∧
    ready.pinsIdle ∧ ready.cutByte = none ∧ (1 : Slot) ≠ 2 :=
  ⟨rfl, test_ready_running.2.1, ⟨rfl, rfl⟩, rfl, by decide⟩

theorem test_witness_SetToneReachesTheImage : ready.running = true ∧ ready.answersOk ∧
    ready.pinsIdle ∧ ready.cutByte = none ∧ (1 : Slot) ≠ 2 := test_witness_MuteToneSilencesTheImage

/-- Op codes 9 and 15, a reserved instruction, and a running state with voice 0 idle. -/
theorem test_witness_ReservedCommandsHaveNoEffect :
    9 ≤ (CmdRecord.ofOp 9).op.toNat ∧ 9 ≤ (CmdRecord.ofOp 15).op.toNat ∧
    isReserved .reserved9 = true ∧ isReserved .reserved15 = true ∧ ready.running = true ∧
    (ready.voice 0).playing = false := by decide

/-- A faulted state, and a stopped one for an operation that is not BEGIN. -/
theorem test_witness_OperationsOutsideRunning :
    isOperation (.tick 5) = true ∧ { ready with fault := true }.fault = true ∧
    State.reset.fault = false ∧ State.reset.started = false ∧ isBegin (.tick 5) = false := by decide

theorem test_witness_BusWordsWriteTheirByte : ready.answersOk ∧ ready.pinsIdle ∧ (2 : Osc) ≠ 3 :=
  ⟨test_ready_running.2.1, ⟨rfl, rfl⟩, by decide⟩

theorem test_witness_PinStepsDriveTheirPins : ready.answersOk ∧ (2 : Osc) ≠ 3 :=
  ⟨test_ready_running.2.1, by decide⟩

theorem test_witness_LatchPulsesTheByte : ready.answersOk := test_ready_running.2.1

/-- A failure at the first and at the last of the eight pin events. -/
theorem test_witness_PinFailureEntersTheFaultState :
    (readyFailing [true]).running = true ∧ (readyFailing [true]).pinsIdle ∧ (1 : Osc) ≠ 3 ∧ 0 < 8 ∧
    (readyFailing [true]).inputs.ioFail = List.replicate 0 false ++ true :: [] ∧ 7 < 8 ∧
    (readyFailing (List.replicate 7 false ++ [true])).inputs.ioFail =
      List.replicate 7 false ++ true :: [] :=
  ⟨rfl, ⟨rfl, rfl⟩, by decide, by decide, rfl, by decide, rfl⟩

theorem test_witness_CutPulseLeavesNoValue :
    let s := readyFailing (List.replicate 6 false ++ [true])
    s.running = true ∧ s.pinsIdle ∧ s.cutByte = none ∧
    s.inputs.ioFail = List.replicate 6 false ++ true :: [] ∧ (1 : Slot) ≠ 2 :=
  ⟨rfl, ⟨rfl, rfl⟩, rfl, rfl, by decide⟩

/-- The rising edges of the low byte, the high byte and a noise byte. -/
theorem test_witness_CutPulseInTheOtherWrites :
    ∀ k ∈ [6, 11, 4],
      let s := readyFailing (List.replicate k false ++ [true])
      s.running = true ∧ s.pinsIdle ∧ s.cutByte = none ∧
      s.inputs.ioFail = List.replicate k false ++ true :: [] := by
  intro k hk
  fin_cases hk <;> exact ⟨rfl, ⟨rfl, rfl⟩, rfl, rfl⟩

/-- Both causes. -/
theorem test_witness_FaultsComeFromTheirCauses :
    ((readyFailing [true]).fault = false ∧
      ∃ t, exec .muteNoise (readyFailing [true]) = .next t ∧ t.fault = true) ∧
    (ready.fault = false ∧ ∃ t, exec (.beginOp false 5) ready = .next t ∧ t.fault = true) :=
  ⟨⟨rfl, _, rfl, rfl⟩, rfl, _, rfl, rfl⟩

theorem test_witness_ConfigErrorAtBegin : State.reset.fault = false := rfl

theorem test_witness_BeginInitialises : ready.fault = false ∧ ready.answersOk ∧ ready.pinsIdle :=
  ⟨rfl, test_ready_running.2.1, ⟨rfl, rfl⟩⟩

theorem test_witness_EndTearsDown : ready.running = true ∧ ready.answersOk ∧ ready.pinsIdle :=
  ⟨rfl, test_ready_running.2.1, ⟨rfl, rfl⟩⟩

theorem test_witness_PinFailureInLifecycle :
    (readyFailing [true]).fault = false ∧ (readyFailing [true]).pinsIdle ∧ 0 < 2 ∧
    (readyFailing [true]).inputs.ioFail = List.replicate 0 false ++ true :: [] ∧ 1 < 2 ∧
    (readyFailing [false, true]).inputs.ioFail = List.replicate 1 false ++ true :: [] ∧
    (readyFailing [true]).started = true := ⟨rfl, ⟨rfl, rfl⟩, by decide, rfl, by decide, rfl, rfl⟩

/-- A frame of the environment that presents nothing, with reset as given. -/
def frame (reset : Bool) : EnvFrame :=
  { reset := reset, cmd := none, tick := false, now := 3, cfgOk := true, tickFirst := false }

/-- `ready` with one frame to come. -/
def scripted (f : EnvFrame) : State := { ready with inputs := { Inputs.reset with script := [f] } }

/-- Without a reset to come, and with one. -/
theorem test_witness_FaultStateIsSticky :
    let s := { scripted (frame false) with fault := true }
    let r := { scripted (frame true) with fault := true }
    s.quiescent ∧ s.fault = true ∧ s.noResetNext ∧ r.quiescent ∧ r.fault = true ∧
    r.inputs.script = frame true :: [] ∧ (frame true).reset = true := by
  refine ⟨⟨rfl, rfl, rfl, rfl⟩, rfl, ?_, ⟨rfl, rfl, rfl, rfl⟩, rfl, rfl, rfl⟩
  intro f hf
  simp only [scripted, List.head?_cons, Option.mem_def, Option.some.injEq] at hf
  subst hf; rfl

theorem test_witness_ResetRestoresEverything :
    (scripted (frame true)).inputs.script = frame true :: [] ∧ (frame true).reset = true ∧
    ∃ t, step (scripted (frame true)) = .next t := ⟨rfl, rfl, _, rfl⟩

/-- All three slots holding the same voice. -/
def full (v : Voice) : State := { ready with voices := { v0 := v, v1 := v, v2 := v } }

/-- A voice that plays. -/
def someVoice : Voice := voiceWith 440 (env 2 2 8 3) 2 2 0 3 0

/-- The first idle voice is 0, is 2, is none. -/
theorem test_witness_PlayNoteTakesItsVoice :
    ready.running = true ∧ (ready.voice 0).playing = false ∧
    (∀ j : Slot, j < 0 → (ready.voice j).playing = true) ∧
    (let s := (full someVoice).setVoice 2 Voice.zero
     s.running = true ∧ (s.voice 2).playing = false ∧
      ∀ j : Slot, j < 2 → (s.voice j).playing = true) ∧
    (full someVoice).running = true ∧ ∀ i, ((full someVoice).voice i).playing = true := by decide

theorem test_witness_ThreeNotesFillThreeVoices :
    ready.running = true ∧ ∀ i, (ready.voice i).playing = false := by decide

/-- A voice with two units in one phase. -/
def inAttack : Voice := voiceWith 440 (env 5 0 8 3) 2 0 0 3 3
/-- In decay. -/
def inDecay : Voice := voiceWith 440 (env 0 5 8 3) 0 2 0 3 3
/-- In sustain. -/
def inSustain : Voice := voiceWith 440 (env 0 0 8 3) 0 0 2 3 3
/-- In release. -/
def inRelease : Voice := voiceWith 440 (env 0 0 8 5) 0 0 0 2 3
/-- Expired. -/
def expired : Voice := voiceWith 440 (env 0 0 8 0) 0 0 0 0 3

/-- Each clause's phase, on a playing voice that keeps its counters' bounds. -/
theorem test_witness_EnvelopeLevels :
    (∀ v ∈ [inAttack, inDecay, inSustain, inRelease, expired], v.playing = true ∧ v.countersOk) ∧
    0 < inAttack.phase.attackLeft.toNat ∧
    (inDecay.phase.attackLeft = 0 ∧ 0 < inDecay.phase.decayLeft.toNat) ∧
    (inSustain.phase.attackLeft = 0 ∧ inSustain.phase.decayLeft = 0 ∧
      0 < inSustain.phase.sustainLeft.toNat) ∧
    (inRelease.phase.attackLeft = 0 ∧ inRelease.phase.decayLeft = 0 ∧
      inRelease.phase.sustainLeft = 0 ∧ 0 < inRelease.phase.releaseLeft.toNat) ∧
    expired.phase.total = 0 := by
  refine ⟨?_, by decide, by decide, by decide, by decide, rfl⟩
  intro v hv
  fin_cases hv <;> exact ⟨rfl, fun _ => by decide⟩

/-- One unit of two is taken: the phase is selected again. -/
theorem test_witness_EnvelopeIsMonotone :
    (∀ v ∈ [inAttack, inDecay, inRelease], v.playing = true ∧ v.countersOk ∧
      selectPhase (envelopeVoice 1 v).phase = selectPhase v.phase) ∧
    selectPhase inAttack.phase = .attack ∧ selectPhase inDecay.phase = .decay ∧
    selectPhase inRelease.phase = .release := by
  refine ⟨?_, by decide, by decide, by decide⟩
  intro v hv
  fin_cases hv <;> exact ⟨rfl, fun _ => by decide, by decide⟩

theorem test_witness_VoiceGoesIdleExactly : inRelease.playing = true ∧ inRelease.countersOk ∧
    selectPhase inRelease.phase = .release := ⟨rfl, fun _ => by decide, by decide⟩

/-- The delay, its end, the middle and the end of the rise. -/
theorem test_witness_VibratoRamp :
    let vib : VibratoConfig := { delay := 2, amplitude := 20, rise := 4, period := 6 }
    2 ≤ vib.delay.toNat ∧ (vib.delay.toNat < 3 ∧ 3 < vib.delay.toNat + vib.rise.toNat) ∧
    (vib.delay.toNat < 5 ∧ 5 < vib.delay.toNat + vib.rise.toNat) ∧
    (vib.delay.toNat < 6 ∧ vib.delay.toNat + vib.rise.toNat ≤ 6) := by decide

/-- Half a period, one more, and the period 2. -/
theorem test_witness_VibratoSign :
    let vib : VibratoConfig := { delay := 2, amplitude := 20, rise := 4, period := 6 }
    0 < vib.period.toNat ∧ 9 % vib.period.toNat ≤ vib.period.toNat / 2 ∧
    vib.period.toNat / 2 < 10 % vib.period.toNat ∧ { vib with period := 2 }.period.toNat ≤ 2 := by
  decide

theorem test_witness_TremoloTouchesMaskedBitsOnly :
    let trem : TremoloConfig := { period := 4, bitMask := 1 }
    0 < 10 ∧ trem.bitMask.getLsbD 0 = true ∧ 9 < 10 ∧ trem.bitMask.getLsbD 9 = false := by decide

theorem test_witness_ZeroSwitchesEffectsOff :
    someVoice.config.vibrato.amplitude = 0 ∧ someVoice.config.tremolo.bitMask = 0 := by decide

theorem test_witness_TickProcessesVoicesInOrder :
    (full someVoice).running = true ∧ (full someVoice).answersOk ∧ (full someVoice).pinsIdle ∧
    (0 : Slot) ∈ processedSlots (full someVoice) ∧ (2 : Slot) ∈ processedSlots (full someVoice) ∧
    (1 : Slot) ∉ processedSlots ready :=
  ⟨rfl, (fun _ h => by cases h), ⟨rfl, rfl⟩, by decide, by decide, by decide⟩

theorem test_witness_TickSize :
    (full someVoice).running = true ∧ (full someVoice).pinsIdle ∧ (full someVoice).answersOk ∧
    ready.running = true ∧ ready.pinsIdle ∧ ∀ i, (ready.voice i).playing = false :=
  ⟨rfl, ⟨rfl, rfl⟩, (fun _ h => by cases h), rfl, ⟨rfl, rfl⟩, by decide⟩

/-- Three playing voices keep their bounds. -/
theorem test_full_voicesOk : (full someVoice).voicesOk := by
  intro i; fin_cases i <;> exact ⟨fun _ => by decide, fun _ _ => by decide⟩

theorem test_witness_TickTakesTheModularDifference :
    (full someVoice).running = true ∧ (full someVoice).voicesOk ∧
    ((full someVoice).voice 0).playing = true := ⟨rfl, test_full_voicesOk, rfl⟩

theorem test_witness_EarlyStopFreezesHigherVoices :
    (let s := (full someVoice).setVoice 1 Voice.zero
     s.running = true ∧ s.params.earlyStop = true ∧ (s.voice 1).playing = false ∧
      (1 : Slot) ≤ 1 ∧ (1 : Slot) ≤ 2) ∧
    (let s := { full someVoice with params := params false }
     s.running = true ∧ s.params.earlyStop = false ∧ s.answersOk ∧ (s.voice 2).playing = true) :=
  ⟨⟨rfl, rfl, rfl, by decide, by decide⟩, rfl, rfl, (fun _ h => by cases h), rfl⟩

theorem test_witness_EveryStepEndsQuiescent : ready.quiescent := test_ready_running.2.2.2.1

/-- `full someVoice` with a tick waiting. -/
def ticking : State :=
  { full someVoice with inputs := { Inputs.reset with tickReq := true, now := 1 } }

theorem test_witness_EveryStepKeepsVoiceBounds :
    ticking.quiescent ∧ ticking.voicesOk ∧ ∃ t, step ticking = .next t :=
  ⟨⟨rfl, rfl, rfl, rfl⟩, test_full_voicesOk, _, rfl⟩

theorem test_witness_EveryStepKeepsTraceGrammar :
    ticking.quiescent ∧ ticking.traceOk ∧ ∃ t, step ticking = .next t :=
  ⟨⟨rfl, rfl, rfl, rfl⟩, .inl rfl, _, rfl⟩

theorem test_witness_EveryStepKeepsPulseDiscipline :
    ticking.quiescent ∧ ticking.pulsesOk ∧ ∃ t, step ticking = .next t :=
  ⟨⟨rfl, rfl, rfl, rfl⟩, rfl, _, rfl⟩

theorem test_witness_EveryStepKeepsFlagsAgreeing :
    ticking.quiescent ∧ ticking.flagsOk ∧ ∃ t, step ticking = .next t :=
  ⟨⟨rfl, rfl, rfl, rfl⟩, by unfold State.flagsOk; decide, _, rfl⟩

theorem test_witness_ConstantsNeverChange : ∃ t, step ticking = .next t := ⟨_, rfl⟩

theorem test_witness_TraceOnlyGrows :
    ticking.noResetNext ∧ ∃ t, step ticking = .next t := ⟨(fun _ h => by cases h), _, rfl⟩

/-- A tick that a pin failure ends, and END. -/
theorem test_witness_OnlyPlayNoteStartsVoices :
    (∃ t, exec (.tick 1) { full someVoice with inputs := (readyFailing [true]).inputs } = .next t) ∧
    isPlayNote (.tick 1) = false ∧
    (∃ t, exec .endOp (full someVoice) = .next t) ∧ isPlayNote .endOp = false :=
  ⟨⟨_, rfl⟩, rfl, ⟨_, rfl⟩, rfl⟩

/-- One instruction of each clause. -/
theorem test_witness_AccessTableFrame :
    (isBusOnly .muteNoise = true ∧ ∃ t, exec .muteNoise ready = .next t) ∧
    (isPlayNote (.playNote 440 5 (env 1 2 3 4) 3) = true ∧
      ∃ t, exec (.playNote 440 5 (env 1 2 3 4) 3) ready = .next t) ∧
    (∃ t, exec (.tick 1) ready = .next t) ∧
    (isBegin (.beginOp true 5) = true ∧ ready.pinsIdle ∧ ∃ t, exec (.beginOp true 5) ready = .next t) ∧
    ∃ t, exec .endOp ready = .next t :=
  ⟨⟨rfl, _, rfl⟩, ⟨rfl, _, rfl⟩, ⟨_, rfl⟩, ⟨rfl, ⟨rfl, rfl⟩, _, rfl⟩, ⟨_, rfl⟩⟩

/-- A tick from its port, and an internal step the sequencer holds. -/
theorem test_witness_StepRunsTheDecodedInstruction :
    (∃ s', ticking.fetch = some (.tick 1, s') ∧ decode (.tick 1) = .ok (.tick 1)) ∧
    ∃ s', (ready.withFetchWord 8 0xFF).fetch = some (.bus 0xFF, s') ∧
      decode (.bus 0xFF) = .ok (.noiseAtt 15) := ⟨⟨_, rfl, rfl⟩, _, rfl, rfl⟩

/-- `ready` with a command and a tick on the ports. -/
def requested (cmd : Option CmdRecord) (tick tickFirst : Bool) : State :=
  { ready with inputs :=
    { Inputs.reset with cmdPort := cmd, tickReq := tick, tickFirst := tickFirst } }

/-- A lone command, a command before a tick, a lone tick, a tick before a command, nothing. -/
theorem test_witness_PortsAcceptOneRequest :
    let c := CmdRecord.ofOp 7
    (∀ s ∈ [requested (some c) false true, requested (some c) true false, requested none true false,
      requested (some c) true true, requested none false true], s.seq = .idle ∧ s.busy = false) ∧
    ((requested (some c) false true).inputs.cmdPort = some c ∧
      (requested (some c) false true).inputs.tickReq = false) ∧
    ((requested (some c) true false).inputs.cmdPort = some c ∧
      (requested (some c) true false).inputs.tickFirst = false) ∧
    ((requested none true false).inputs.tickReq = true ∧
      (requested none true false).inputs.cmdPort = none) ∧
    ((requested (some c) true true).inputs.tickReq = true ∧
      (requested (some c) true true).inputs.tickFirst = true) ∧
    ((requested none false true).inputs.cmdPort = none ∧
      (requested none false true).inputs.tickReq = false) := by
  refine ⟨?_, ⟨rfl, rfl⟩, ⟨rfl, rfl⟩, ⟨rfl, rfl⟩, ⟨rfl, rfl⟩, rfl, rfl⟩
  intro s hs
  fin_cases hs <;> exact ⟨rfl, rfl⟩

theorem test_witness_WaitingTicksMerge :
    (requested none true false).inputs.tickReq = true ∧ (frame false).cmd = none := ⟨rfl, rfl⟩

/-- The low byte's falling edge, then the last event of the high byte; all answers ok, and a failure at
the falling edge. -/
theorem test_witness_SequencerFollowsTheTransaction :
    let s := ready.accept .direct
    let lo := toneDivLoEvents s.params 1 5
    let hi := toneDivHiEvents s.params 9
    (s.seq = .inside .direct .start ∧ s.pinsIdle ∧ s.answersOk) ∧
    Transaction s.params (lo.take 5 ++ .weN false :: (lo.drop 6 ++ hi)) ∧
    Transaction s.params (lo ++ hi.take 5 ++ .data 7 0 0 :: []) ∧
    ((readyFailing (List.replicate 5 false ++ [true])).accept .direct).inputs.ioFail =
      List.replicate (askedOf (lo.take 5)) false ++ true :: [] :=
  ⟨⟨rfl, ⟨rfl, rfl⟩, fun _ h => by cases h⟩, .divisor 1 0x95, .divisor 1 0x95, rfl⟩

end Sys2Proof.Tests
end

section
/-! PROOFS. Scope (00_scope.md): a step runs the decoded instruction, ends quiescent, and appends at most
fifteen bytes to the bus trace. -/

namespace Sys2Proof.Machine

open Sys2Proof

/-! ## What a step is (R11) -/

/-- Settles O56: `step` by the two equations of its scrutinees. -/
theorem stepRunsTheDecodedInstruction : Obligations.StepRunsTheDecodedInstruction := by
  intro s s' w i hfetch hdecode
  simp [step, hfetch, hdecode]

/-- A step that answers a next state, from any state: nothing to run, or one decoded instruction; then the
environment's frame. -/
theorem step_next_cases {s t : State} (h : step s = .next t) :
    (s.fetch = none ∧ t = s.arrive) ∨
    ∃ w s' i u, s.fetch = some (w, s') ∧ decode w = .ok i ∧ exec i s' = .next u ∧ t = u.arrive := by
  cases hfetch : s.fetch with
  | none =>
    simp only [step, hfetch, Host.Outcome.next.injEq] at h
    exact .inl ⟨rfl, h.symm⟩
  | some p =>
    obtain ⟨w, s'⟩ := p
    cases hdecode : decode w with
    | error e => simp [step, hfetch, hdecode] at h
    | ok i =>
      rw [stepRunsTheDecodedInstruction s s' w i hfetch hdecode] at h
      cases hexec : exec i s' with
      | next u =>
        simp only [hexec, arriveAfter, Host.Outcome.next.injEq] at h
        exact .inr ⟨w, s', i, u, rfl, hdecode, hexec, h.symm⟩
      | fault f => cases f
      | refused r => simp [hexec, arriveAfter] at h

/-! ## Between operations the CORE is quiescent (R14, R119, R246) -/

/-- A whole transaction that meets no failure leaves idle pins idle. -/
theorem Transaction.pinsIdle {p : Config.Params} {es : List PinEvent} (h : Transaction p es) {s : State}
    (hs : s.pinsIdle) : (applyEvents es s).pinsIdle := by
  obtain ⟨hd, hwe⟩ := hs
  cases h with
  | divisor i n => rw [applyEvents_divisor hd]; exact ⟨rfl, rfl⟩
  | toneAtt i level => rw [applyEvents_toneAtt hd]; exact ⟨rfl, rfl⟩
  | noiseCtl ntype shift => rw [applyEvents_noiseCtl hd]; exact ⟨rfl, rfl⟩
  | noiseAtt level => rw [applyEvents_noiseAtt hd]; exact ⟨rfl, rfl⟩
  | idle => constructor <;> simp [idleEvents, driveField, pinMask, hd]

/-- Idle pins are kept by whole transactions, failing ones included: the fault path drives the pins idle
(R119, R214). -/
theorem busKept_pinsIdle : BusKept State.pinsIdle where
  same := by
    rintro s t ⟨-, -, -, hd, hwe, -⟩ ⟨hd0, hwe1⟩
    exact ⟨hd.trans hd0, hwe.trans hwe1⟩
  drive := by
    intro s es _ htrans hs
    obtain hgo | ⟨pre, e, post, -, -, habort⟩ := drivePins_cases es s
    · rw [hgo]; exact htrans.pinsIdle hs
    · rw [habort]; exact ⟨rfl, rfl⟩
  config := fun _ hs => hs

/-- No operation is in progress (R30, R31). -/
def State.atRest (s : State) : Prop := s.seq = .idle ∧ s.busy = false

/-- An operation whose aborts enter the fault state is over at its end, completed or aborted. -/
theorem Progress.finish_atRest {p : Progress} (h : ∀ t, p = .aborted t → t.stoppedByFault) :
    p.finish.atRest := by
  cases p with
  | going s => exact ⟨rfl, rfl⟩
  | aborted t => exact (h t rfl).2

theorem directWrite_atRest {es : List PinEvent} {s t : State} (hs : s.atRest)
    (h : directWrite es s = .next t) : t.atRest := by
  simp only [directWrite, Host.Outcome.next.injEq] at h
  subst h
  split
  · exact Progress.finish_atRest fun _ => drivePins_aborted
  · exact hs

theorem directToneWrite_atRest {osc : Osc} {es : List PinEvent} {s t : State} (hs : s.atRest)
    (h : directToneWrite osc es s = .next t) : t.atRest := by
  simp only [directToneWrite] at h
  split at h
  · cases h; exact hs
  · exact directWrite_atRest hs h

theorem settlePins_atRest (b : Bool) (s : State) : (settlePins b s).atRest := by
  refine Progress.finish_atRest fun t h => ?_
  obtain h | ⟨u, h⟩ := andThen_aborted h
  · exact drivePins_aborted h
  · cases h

/-- Every operation is over when it answers (R11). -/
theorem exec_operation_atRest {i : Instr} {s t : State} (hi : isOperation i = true) (hs : s.atRest)
    (h : exec i s = .next t) : t.atRest := by
  cases i with
  | beginOp cfgOk now =>
    simp only [exec, execBegin, Host.Outcome.next.injEq] at h
    subst h
    split
    · exact hs
    · split
      · exact settlePins_atRest _ _
      · exact ⟨rfl, rfl⟩
  | endOp =>
    simp only [exec, execEnd, Host.Outcome.next.injEq] at h
    subst h
    split
    · exact settlePins_atRest _ _
    · exact hs
  | setTone osc f => exact directToneWrite_atRest hs h
  | setToneAtt osc level => exact directToneWrite_atRest hs h
  | muteTone osc => exact directToneWrite_atRest hs h
  | setNoise ntype shift => exact directWrite_atRest hs h
  | setNoiseAtt level => exact directWrite_atRest hs h
  | muteNoise => exact directWrite_atRest hs h
  | playNote f duration cfg index =>
    simp only [exec, execPlayNote, Host.Outcome.next.injEq] at h
    subst h
    split
    · cases htarget : playTarget s index with
      | some slot => rw [startNote_target htarget]; exact ⟨rfl, rfl⟩
      | none => rw [startNote_dropped htarget]; exact ⟨rfl, rfl⟩
    · exact hs
  | tick now =>
    simp only [exec, execTick, Host.Outcome.next.injEq] at h
    subst h
    split
    · exact Progress.finish_atRest fun _ => voiceLoop_aborted
    · exact hs
  | reserved9 | reserved10 | reserved11 | reserved12 | reserved13 | reserved14 | reserved15 =>
    cases h; exact hs
  | toneDivLo | toneDivHi | toneAtt | noiseCtl | noiseAtt | writeToneRegister | writeNoiseRegister
  | writeFrequencyLow | writeFrequencyHigh | writeAttenuation | writeNoiseControl | latch => cases hi

/-- Every operation ends quiescent: it is over, and its transactions left the pins idle. -/
theorem exec_operation_quiescent {i : Instr} {s t : State} (hi : isOperation i = true)
    (hs : s.quiescent) (h : exec i s = .next t) : t.quiescent := by
  obtain ⟨hseq, hbusy, hpins⟩ := hs
  obtain ⟨hseq', hbusy'⟩ := exec_operation_atRest hi ⟨hseq, hbusy⟩ h
  exact ⟨hseq', hbusy', exec_operation_keeps busKept_pinsIdle hi hpins h⟩

/-- Quiescence does not look at the inputs. -/
theorem sameButInputs.quiescent {s t : State} (h : sameButInputs s t) (hs : s.quiescent) :
    t.quiescent := by
  rw [h]; exact hs

/-- The environment's frame keeps a quiescent state quiescent, a reset included (R36). -/
theorem arrive_quiescent {s : State} (hs : s.quiescent) : s.arrive.quiescent :=
  arrive_keeps (fun _ => ⟨rfl, rfl, rfl, rfl⟩) (fun _ _ h => h.quiescent) hs

/-- Settles O47: from a quiescent state a step runs at most one operation (`step_quiescent`), which ends
quiescent, and the environment's frame keeps that. -/
theorem everyStepEndsQuiescent : Obligations.EveryStepEndsQuiescent := by
  intro s hq
  obtain ⟨-, hstep⟩ | ⟨i, s', u, hi, hsame, -, -, hexec, hstep⟩ := step_quiescent hq
  · exact ⟨_, hstep, arrive_quiescent hq⟩
  · exact ⟨_, hstep, arrive_quiescent (exec_operation_quiescent hi (hsame.quiescent hq) hexec)⟩

/-! ## How many bytes join the trace (R14, R53) -/

/-- From `s` to `t` at most `n` bytes joined the trace, none was lost, and the environment's coming frames
are the same. -/
structure AppendsAtMost (n : ℕ) (s t : State) : Prop where
  script : t.inputs.script = s.inputs.script
  trace : ∃ bytes, t.trace = s.trace ++ bytes ∧ bytes.length ≤ n

namespace AppendsAtMost

variable {m n : ℕ} {s t u : State}

theorem of_eq (hscript : t.inputs.script = s.inputs.script) (htrace : t.trace = s.trace) :
    AppendsAtMost n s t := ⟨hscript, [], by simpa using htrace, by simp⟩

theorem refl (s : State) : AppendsAtMost n s s := of_eq rfl rfl

theorem trans (h : AppendsAtMost m s t) (k : AppendsAtMost n t u) : AppendsAtMost (m + n) s u := by
  obtain ⟨hscript, bs, hbs, hm⟩ := h
  obtain ⟨kscript, cs, hcs, hn⟩ := k
  exact ⟨kscript.trans hscript, bs ++ cs, by rw [hcs, hbs, List.append_assoc],
    by rw [List.length_append]; omega⟩

theorem mono (h : AppendsAtMost m s t) (hmn : m ≤ n) : AppendsAtMost n s t := by
  obtain ⟨hscript, bs, hbs, hm⟩ := h
  exact ⟨hscript, bs, hbs, hm.trans hmn⟩

/-- Writes to the other fields before the start do not count. -/
theorem of_start (hscript : t.inputs.script = s.inputs.script) (htrace : t.trace = s.trace)
    (h : AppendsAtMost n t u) : AppendsAtMost n s u := by
  simpa using (of_eq (n := 0) hscript htrace).trans h

theorem andThen {p : Progress} {f : State → Progress} (hp : AppendsAtMost m s p.state)
    (hf : ∀ u, AppendsAtMost n u (f u).state) : AppendsAtMost (m + n) s (p.andThen f).state := by
  cases p with
  | going u => exact hp.trans (hf u)
  | aborted u => exact hp.mono (Nat.le_add_right m n)

theorem finish {p : Progress} (hp : AppendsAtMost n s p.state) : AppendsAtMost n s p.finish := by
  cases p with
  | going u => exact hp.trans (of_eq (n := 0) (t := u.complete) rfl rfl)
  | aborted u => exact hp

/-- Only a rising edge of `WE_n` can add a byte, and it adds one at most (R53). -/
theorem of_applyEvent (e : PinEvent) (s : State) :
    AppendsAtMost ([e].count (.weN true)) s (applyEvent e s) := by
  cases e with
  | data hi lo v => exact of_eq rfl rfl
  | wait t => exact of_eq rfl rfl
  | weN level =>
    cases level with
    | false => exact of_eq rfl (by simp)
    | true =>
      cases hwe : s.weN with
      | true => exact of_eq rfl (by simp [hwe])
      | false => exact ⟨rfl, [s.d], by simp [hwe], by simp⟩

theorem of_applyEvents (es : List PinEvent) (s : State) :
    AppendsAtMost (es.count (.weN true)) s (applyEvents es s) := by
  induction es generalizing s with
  | nil => exact refl s
  | cons e es ih =>
    rw [← List.singleton_append, List.count_append]
    exact (of_applyEvent e s).trans (ih _)

/-- Driven pins add at most one byte per rising edge in their list, whatever the answers. -/
theorem drive {es : List PinEvent} (hes : es.count (.weN true) ≤ n) (s : State) :
    AppendsAtMost n s (drivePins es s).state := by
  refine mono ?_ hes
  obtain hgo | ⟨pre, e, post, rfl, -, habort⟩ := drivePins_cases es s
  · rw [hgo]; exact of_applyEvents es s
  · rw [habort, List.count_append]
    exact (of_applyEvents pre s).trans (of_eq rfl rfl)

theorem directWrite {es : List PinEvent} (hes : es.count (.weN true) ≤ n)
    (h : directWrite es s = .next t) : AppendsAtMost n s t := by
  simp only [Machine.directWrite, Host.Outcome.next.injEq] at h
  subst h
  split
  · exact finish (of_start (t := s.accept .direct) rfl rfl (drive hes _))
  · exact refl _

theorem directToneWrite {osc : Osc} {es : List PinEvent} (hes : es.count (.weN true) ≤ n)
    (h : directToneWrite osc es s = .next t) : AppendsAtMost n s t := by
  simp only [Machine.directToneWrite] at h
  split at h
  · cases h; exact refl _
  · exact directWrite hes h

theorem busSteps {es : List PinEvent} (hes : es.count (.weN true) ≤ n)
    (h : busSteps es s = .next t) : AppendsAtMost n s t := by
  cases h; exact drive hes s

theorem toneSteps {osc : Osc} {es : List PinEvent} (hes : es.count (.weN true) ≤ n)
    (h : toneSteps osc es s = .next t) : AppendsAtMost n s t := by
  simp only [Machine.toneSteps] at h
  split at h
  · cases h
  · exact busSteps hes h

/-- BEGIN and END pulse nothing; from a `WE_n` that stands low their `WE_n <- 1` completes one pulse. -/
theorem settlePins (b : Bool) (s : State) : AppendsAtMost 1 s (settlePins b s) :=
  finish (andThen (n := 0) (drive (es := idleEvents) (by simp [idleEvents]) s) fun _ => of_eq rfl rfl)

theorem startNote (f : Freq) (duration : Time) (cfg : VoiceConfig) (index : Osc) (s : State) :
    AppendsAtMost 0 s (startNote f duration cfg index s) := by
  cases htarget : playTarget s index with
  | some slot => rw [startNote_target htarget]; exact of_eq rfl rfl
  | none => rw [startNote_dropped htarget]; exact of_eq rfl rfl

/-- A processed voice writes its two divisors and its level, five bytes (R193). -/
theorem processVoice (dt : Time) (i : Slot) (s : State) :
    AppendsAtMost 5 s (processVoice dt i s).state := by
  have hmod (s : State) : AppendsAtMost (2 + 2) s (modulationStep i s).state :=
    andThen (drive (by rfl) s) fun u => of_start (t := u.moveTo _) rfl rfl (drive (by rfl) _)
  have henv (s : State) : AppendsAtMost 1 s (envelopeStep i dt s).state :=
    of_start (t := (s.moveTo _).setVoice i _) rfl rfl (drive (by rfl) _)
  exact of_start (t := (s.moveTo _).setVoice i _) rfl rfl (andThen (m := 4) (hmod _) henv)

theorem voiceLoop (dt : Time) (is : List Slot) (s : State) :
    AppendsAtMost (5 * is.length) s (voiceLoop dt is s).state := by
  induction is generalizing s with
  | nil => exact refl s
  | cons i is ih =>
    simp only [Machine.voiceLoop, List.length_cons]
    split
    · exact (andThen (processVoice dt i s) ih).mono (by omega)
    · split
      · exact refl _
      · exact (ih s).mono (by omega)

end AppendsAtMost

/-- No instruction adds more than fifteen bytes: a tick writes five for each of three voices, every other
one at most two. -/
theorem exec_appendsAtMost {i : Instr} {s t : State} (h : exec i s = .next t) :
    AppendsAtMost 15 s t := by
  cases i with
  | beginOp cfgOk now =>
    simp only [exec, execBegin, Host.Outcome.next.injEq] at h
    subst h
    split
    · exact .refl _
    · split
      · exact .of_start (t := (s.accept _).clearVoices.setLastTick now) rfl rfl
          ((AppendsAtMost.settlePins true _).mono (by decide))
      · exact .of_eq rfl rfl
  | endOp =>
    simp only [exec, execEnd, Host.Outcome.next.injEq] at h
    subst h
    split
    · exact .of_start (t := (s.accept _).clearVoices) rfl rfl
        ((AppendsAtMost.settlePins false _).mono (by decide))
    · exact .refl _
  | playNote f duration cfg index =>
    simp only [exec, execPlayNote, Host.Outcome.next.injEq] at h
    subst h
    split
    · exact (AppendsAtMost.startNote f duration cfg index s).mono (by decide)
    · exact .refl _
  | tick now =>
    simp only [exec, execTick, Host.Outcome.next.injEq] at h
    subst h
    split
    · exact .finish (.of_start (t := (s.accept _).setLastTick now) rfl rfl (.voiceLoop _ [0, 1, 2] _))
    · exact .refl _
  | reserved9 | reserved10 | reserved11 | reserved12 | reserved13 | reserved14 | reserved15 =>
    cases h; exact .refl _
  | setTone osc f => exact (AppendsAtMost.directToneWrite (n := 2) (by rfl) h).mono (by decide)
  | setToneAtt osc level | muteTone osc =>
    exact (AppendsAtMost.directToneWrite (n := 1) (by rfl) h).mono (by decide)
  | setNoise ntype shift | setNoiseAtt level | muteNoise =>
    exact (AppendsAtMost.directWrite (n := 1) (by rfl) h).mono (by decide)
  | toneDivLo osc lo | toneAtt osc level =>
    exact (AppendsAtMost.toneSteps (n := 1) (by rfl) h).mono (by decide)
  | writeToneRegister osc => exact (AppendsAtMost.toneSteps (n := 0) (by rfl) h).mono (by decide)
  | toneDivHi hi | noiseCtl shift ntype | noiseAtt level | latch =>
    exact (AppendsAtMost.busSteps (n := 1) (by rfl) h).mono (by decide)
  | writeNoiseRegister | writeFrequencyLow lo | writeFrequencyHigh hi | writeAttenuation level
  | writeNoiseControl ntype shift =>
    exact (AppendsAtMost.busSteps (n := 0) (by rfl) h).mono (by decide)

/-- Fetching moves the sequencer past an internal step it holds, or frees one of the two ports. -/
theorem fetch_cases {s s' : State} {w : RawWord} (h : s.fetch = some (w, s')) :
    (∃ rest, s' = s.pastStep rest) ∨ s' = s.takeTick ∨ s' = s.takeCmd := by
  unfold State.fetch at h
  split at h
  · cases h; exact .inl ⟨_, rfl⟩
  · split at h
    · right
      simp only [State.acceptRequest] at h
      split at h
      · split at h
        · cases h; exact .inl rfl
        · cases h; exact .inr rfl
      · split at h
        · cases h; exact .inl rfl
        · cases h
    · cases h
  · cases h

/-- Fetching leaves the trace and the environment's coming frames. -/
theorem fetch_keeps_trace_script {s s' : State} {w : RawWord} (h : s.fetch = some (w, s')) :
    s'.trace = s.trace ∧ s'.inputs.script = s.inputs.script := by
  obtain ⟨rest, rfl⟩ | rfl | rfl := fetch_cases h
  · cases rest <;> exact ⟨rfl, rfl⟩
  · exact ⟨rfl, rfl⟩
  · exact ⟨rfl, rfl⟩

/-- A frame without a reset leaves the trace. -/
theorem arrive_trace {s : State} (h : s.noResetNext) : s.arrive.trace = s.trace := by
  unfold State.arrive
  split
  · rfl
  · next f rest hscript => simp [h f (by simp [hscript])]

/-- Settles O53: a step is one instruction at most, and the coming frame, which the instruction does not
touch, resets nothing. -/
theorem traceOnlyGrows : Obligations.TraceOnlyGrows := by
  intro s t hnoReset hstep
  obtain ⟨-, rfl⟩ | ⟨w, s', i, u, hfetch, -, hexec, rfl⟩ := step_next_cases hstep
  · exact ⟨[], by simp [arrive_trace hnoReset], by simp⟩
  · obtain ⟨htrace, hscript⟩ := fetch_keeps_trace_script hfetch
    obtain ⟨hscript', hbytes⟩ := (exec_appendsAtMost hexec).of_start hscript htrace
    have hnoReset' : u.noResetNext := by rwa [State.noResetNext, hscript']
    rwa [arrive_trace hnoReset']

end Sys2Proof.Machine
end

section
/-! PROOFS. State (10_state.md): the access table R37 as one inversion lemma, and what it gives for the
voices, the flags, the constants and the reset. -/

namespace Sys2Proof.Machine

open Sys2Proof

/-! ## The reset state (R36, R240) -/

/-- A voice that does not play keeps every bound. -/
theorem Voice.bounds_of_not_playing {v : Voice} (h : v.playing = false) :
    v.countersOk ∧ v.elapsedOk := by
  constructor <;> intro hplaying <;> simp [h] at hplaying

@[simp] theorem reset_voice (i : Slot) : State.reset.voice i = Voice.zero := Voices.get_zero i

/-- No voice plays after reset, so each keeps its bounds. -/
theorem reset_voicesOk : State.reset.voicesOk := by
  intro i
  obtain ⟨hcounters, helapsed⟩ :=
    Voice.bounds_of_not_playing (v := State.reset.voice i) (by rw [reset_voice]; rfl)
  exact ⟨hcounters, fun _ => helapsed⟩

theorem hardReset_flagsOk (s : State) : s.hardReset.flagsOk := by simp [State.flagsOk]

/-- Settles O46: nothing plays, nothing was driven, no flag is set. -/
theorem resetKeepsEveryInvariant : Obligations.ResetKeepsEveryInvariant :=
  ⟨⟨rfl, rfl, rfl, rfl⟩, reset_voicesOk, .inl rfl, rfl, hardReset_flagsOk State.reset, reset_voice,
    rfl, rfl, rfl, rfl, rfl⟩

/-! ## The frame of the shared operations off the bus -/

/-- Completion touches nothing off the bus. -/
theorem Progress.finish_sameOffBus (p : Progress) : sameOffBus p.state p.finish := by
  cases p with
  | going s => simp [sameOffBus]
  | aborted s => exact .refl s

theorem directWrite_sameOffBus {es : List PinEvent} {s t : State} (h : directWrite es s = .next t) :
    sameOffBus s t := by
  simp only [directWrite, Host.Outcome.next.injEq] at h
  subst h
  split
  · have haccept : sameOffBus s (s.accept .direct) := by simp [sameOffBus]
    exact (haccept.trans (drivePins_sameOffBus es _)).trans (Progress.finish_sameOffBus _)
  · exact .refl s

theorem directToneWrite_sameOffBus {osc : Osc} {es : List PinEvent} {s t : State}
    (h : directToneWrite osc es s = .next t) : sameOffBus s t := by
  simp only [directToneWrite] at h
  split at h
  · cases h; exact .refl s
  · exact directWrite_sameOffBus h

theorem busSteps_sameOffBus {es : List PinEvent} {s t : State} (h : busSteps es s = .next t) :
    sameOffBus s t := by
  cases h; exact drivePins_sameOffBus es s

theorem toneSteps_sameOffBus {osc : Osc} {es : List PinEvent} {s t : State}
    (h : toneSteps osc es s = .next t) : sameOffBus s t := by
  simp only [toneSteps] at h
  split at h
  · cases h
  · exact busSteps_sameOffBus h

/-- The direct writes, the reserved codes and the internal steps touch nothing off the bus (R37). -/
theorem exec_busOnly_sameOffBus {i : Instr} {s t : State} (hi : isBusOnly i = true)
    (h : exec i s = .next t) : sameOffBus s t := by
  cases i with
  | beginOp | endOp | playNote | tick => cases hi
  | setTone | setToneAtt | muteTone => exact directToneWrite_sameOffBus h
  | setNoise | setNoiseAtt | muteNoise => exact directWrite_sameOffBus h
  | reserved9 | reserved10 | reserved11 | reserved12 | reserved13 | reserved14 | reserved15 =>
    cases h; exact .refl s
  | toneDivLo | toneAtt | writeToneRegister => exact toneSteps_sameOffBus h
  | toneDivHi | noiseCtl | noiseAtt | writeNoiseRegister | writeFrequencyLow | writeFrequencyHigh
  | writeAttenuation | writeNoiseControl | latch => exact busSteps_sameOffBus h

/-! ## The rows of the access table (R37) -/

/-- What `playNote` writes: voices, and `busy` and `seq` by its completion. -/
def NoteFrame (s t : State) : Prop := t = { s with voices := t.voices, busy := t.busy, seq := t.seq }

theorem startNote_frame (f : Freq) (duration : Time) (cfg : VoiceConfig) (index : Osc) (s : State) :
    NoteFrame s (startNote f duration cfg index s) := by
  cases htarget : playTarget s index with
  | some slot => rw [startNote_target htarget]; rfl
  | none => rw [startNote_dropped htarget]; rfl

theorem execPlayNote_frame {f : Freq} {duration : Time} {cfg : VoiceConfig} {index : Osc} {s t : State}
    (h : execPlayNote f duration cfg index s = .next t) : NoteFrame s t := by
  simp only [execPlayNote, Host.Outcome.next.injEq] at h
  subst h
  split
  · exact startNote_frame f duration cfg index s
  · rfl

/-- `w` is `v` with its counters, its `elapsedTime` or `playing` written, and not started. -/
structure Voice.NotRestarted (v w : Voice) : Prop where
  playing : w.playing = true → v.playing = true
  config : w.config = v.config
  baseFrequency : w.baseFrequency = v.baseFrequency

theorem Voice.NotRestarted.refl (v : Voice) : v.NotRestarted v := ⟨id, rfl, rfl⟩

/-- An envelope step can clear `playing` and never sets it (R150). -/
theorem playing_of_playingAfter {sel : Sel} {att : Att} {b : Bool}
    (h : playingAfter sel att b = true) : b = true := by
  cases sel with
  | attack | decay | sustain => exact h
  | release =>
    simp only [playingAfter] at h
    split at h
    · cases h
    · exact h
  | none => cases h

theorem agedVoice_notRestarted (dt : Time) (v : Voice) : v.NotRestarted (agedVoice dt v) :=
  ⟨id, rfl, rfl⟩

theorem envelopeVoice_notRestarted (dt : Time) (v : Voice) : v.NotRestarted (envelopeVoice dt v) :=
  ⟨playing_of_playingAfter, rfl, rfl⟩

theorem Voice.NotRestarted.trans {u v w : Voice} (h : u.NotRestarted v) (k : v.NotRestarted w) :
    u.NotRestarted w :=
  ⟨h.playing ∘ k.playing, k.config.trans h.config, k.baseFrequency.trans h.baseFrequency⟩

/-- What a tick leaves off the bus, apart from `lastTickTimestamp`. -/
structure TickFrame (s t : State) : Prop where
  params : t.params = s.params
  noise : t.noisePlaying = s.noisePlaying
  started : t.started = s.started
  inputs : t.inputs = { s.inputs with ioFail := t.inputs.ioFail }
  voices : ∀ j, (s.voice j).NotRestarted (t.voice j)

theorem TickFrame.refl (s : State) : TickFrame s s := ⟨rfl, rfl, rfl, rfl, fun _ => .refl _⟩

/-- The loop leaves each voice as it was, aged, or aged and its envelope stepped. -/
theorem voiceLoop_tickFrame (dt : Time) {is : List Slot} (hnodup : is.Nodup) (s : State) :
    TickFrame s (voiceLoop dt is s).state where
  params := (voiceLoop_frame dt is s).params
  noise := (voiceLoop_frame dt is s).noise
  started := (voiceLoop_frame dt is s).started
  inputs := (voiceLoop_frame dt is s).inputs
  voices := by
    intro j
    have haged := agedVoice_notRestarted dt (s.voice j)
    obtain hv | ⟨-, hv | ⟨hv, -⟩⟩ := voiceLoop_voice dt hnodup s j <;> rw [hv]
    · exact .refl _
    · exact haged.trans (envelopeVoice_notRestarted dt _)
    · exact haged

theorem runTick_frame (now : Time) (s : State) : TickFrame s (runTick now s) := by
  have hloop := voiceLoop_tickFrame (tickDelta now s.lastTick) (is := [0, 1, 2]) (by decide)
    ((s.accept .tickStart).setLastTick now)
  unfold runTick
  generalize voiceLoop _ _ _ = p at hloop
  obtain ⟨hparams, hnoise, hstarted, hinputs, hvoices⟩ := hloop
  cases p <;> exact ⟨hparams, hnoise, hstarted, hinputs, hvoices⟩

theorem execTick_frame {now : Time} {s t : State} (h : execTick now s = .next t) : TickFrame s t := by
  simp only [execTick, Host.Outcome.next.injEq] at h
  subst h
  split
  · exact runTick_frame now s
  · exact .refl s

/-- What BEGIN and END leave, whatever the answers: the store as it was or at its reset values, idle pins
idle and nothing pulsed. -/
structure LifecycleFrame (s t : State) : Prop where
  params : t.params = s.params
  inputs : t.inputs = { s.inputs with ioFail := t.inputs.ioFail }
  store : (t.voices = s.voices ∧ t.noisePlaying = s.noisePlaying) ∨
    (t.voices = Voices.zero ∧ t.noisePlaying = false)
  pins : s.pinsIdle → t.trace = s.trace ∧ t.pinsIdle

theorem LifecycleFrame.refl (s : State) : LifecycleFrame s s :=
  ⟨rfl, rfl, .inl ⟨rfl, rfl⟩, fun h => ⟨rfl, h⟩⟩

theorem LifecycleFrame.trans {s t u : State} (h : LifecycleFrame s t) (k : LifecycleFrame t u) :
    LifecycleFrame s u where
  params := k.params.trans h.params
  inputs := by rw [k.inputs, h.inputs]
  store := by
    obtain ⟨hvoices, hnoise⟩ | hzero := k.store
    · rw [hvoices, hnoise]; exact h.store
    · exact .inr hzero
  pins := by
    intro hs
    obtain ⟨htrace, ht⟩ := h.pins hs
    obtain ⟨ktrace, hu⟩ := k.pins ht
    exact ⟨ktrace.trans htrace, hu⟩

/-- The two drives of BEGIN and END pulse nothing from idle pins, whichever of them fails. -/
theorem drivePins_idleEvents_pins {s : State} (h : s.pinsIdle) :
    (drivePins idleEvents s).state.trace = s.trace ∧ (drivePins idleEvents s).state.pinsIdle := by
  have hidle := Transaction.idle (p := s.params) |>.pinsIdle h
  obtain ⟨-, hwe⟩ := h
  simp only [idleEvents, drivePins]
  split
  · exact ⟨rfl, rfl, rfl⟩
  · split
    · exact ⟨rfl, rfl, rfl⟩
    · exact ⟨by simp [hwe], hidle⟩

theorem settlePins_frame (b : Bool) (s : State) : LifecycleFrame s (settlePins b s) := by
  have hoff := drivePins_sameOffBus idleEvents s
  have hports := hoff.inputs
  obtain ⟨hparams, hvoices, hnoise, -⟩ := hoff
  have hdrive : LifecycleFrame s (drivePins idleEvents s).state :=
    ⟨hparams, hports, .inl ⟨hvoices, hnoise⟩, drivePins_idleEvents_pins⟩
  unfold settlePins
  cases hp : drivePins idleEvents s with
  | going u =>
    rw [hp] at hdrive
    exact hdrive.trans (t := u) ⟨rfl, rfl, .inl ⟨rfl, rfl⟩, fun h => ⟨rfl, h⟩⟩
  | aborted u => rw [hp] at hdrive; exact hdrive

theorem execBegin_frame {cfgOk : Bool} {now : Time} {s t : State}
    (h : execBegin cfgOk now s = .next t) : LifecycleFrame s t := by
  simp only [execBegin, Host.Outcome.next.injEq] at h
  subst h
  split
  · exact .refl s
  · split
    · have hclear : LifecycleFrame s ((s.accept .lifecycle).clearVoices.setLastTick now) :=
        ⟨rfl, rfl, .inr ⟨rfl, rfl⟩, fun h => ⟨rfl, h⟩⟩
      exact hclear.trans (settlePins_frame true _)
    · exact ⟨rfl, rfl, .inl ⟨rfl, rfl⟩, fun h => ⟨rfl, h⟩⟩

theorem execEnd_frame {s t : State} (h : execEnd s = .next t) : LifecycleFrame s t := by
  simp only [execEnd, Host.Outcome.next.injEq] at h
  subst h
  split
  · have hclear : LifecycleFrame s (s.accept .lifecycle).clearVoices :=
      ⟨rfl, rfl, .inr ⟨rfl, rfl⟩, fun h => ⟨rfl, h⟩⟩
    exact hclear.trans (settlePins_frame false _)
  · exact .refl s

theorem exec_lifecycle_frame {i : Instr} {s t : State} (hi : isBegin i = true ∨ i = .endOp)
    (h : exec i s = .next t) : LifecycleFrame s t := by
  obtain hbegin | rfl := hi
  · cases i with
    | beginOp cfgOk now => exact execBegin_frame h
    | _ => cases hbegin
  · exact execEnd_frame h

theorem exec_playNote_frame {i : Instr} {s t : State} (hi : isPlayNote i = true)
    (h : exec i s = .next t) : NoteFrame s t := by
  cases i with
  | playNote f duration cfg index => exact execPlayNote_frame h
  | _ => cases hi

/-- The row of R37 an instruction follows from `s` to `t`. -/
inductive AccessRow (s t : State) : Instr → Prop
  | busOnly {i : Instr} (hi : isBusOnly i = true) (h : sameOffBus s t) : AccessRow s t i
  | playNote {f : Freq} {duration : Time} {cfg : VoiceConfig} {index : Osc} (h : NoteFrame s t) :
      AccessRow s t (.playNote f duration cfg index)
  | tick {now : Time} (h : TickFrame s t) : AccessRow s t (.tick now)
  | lifecycle {i : Instr} (hi : isBegin i = true ∨ i = .endOp) (h : LifecycleFrame s t) :
      AccessRow s t i

/-- Every instruction that answers a next state follows its row of the access table. -/
theorem exec_accessRow {i : Instr} {s t : State} (h : exec i s = .next t) : AccessRow s t i := by
  cases i with
  | beginOp cfgOk now => exact .lifecycle (.inl rfl) (execBegin_frame h)
  | endOp => exact .lifecycle (.inr rfl) (execEnd_frame h)
  | playNote f duration cfg index => exact .playNote (execPlayNote_frame h)
  | tick now => exact .tick (execTick_frame h)
  | setTone | setToneAtt | muteTone | setNoise | setNoiseAtt | muteNoise | reserved9 | reserved10
  | reserved11 | reserved12 | reserved13 | reserved14 | reserved15 | toneDivLo | toneDivHi | toneAtt
  | noiseCtl | noiseAtt | writeToneRegister | writeNoiseRegister | writeFrequencyLow
  | writeFrequencyHigh | writeAttenuation | writeNoiseControl | latch =>
    exact .busOnly rfl (exec_busOnly_sameOffBus rfl h)

/-! ## What the access table gives -/

/-- No instruction writes the constants (R32). -/
theorem exec_params {i : Instr} {s t : State} (h : exec i s = .next t) : t.params = s.params := by
  cases exec_accessRow h with
  | busOnly _ hframe => exact hframe.1
  | playNote hframe => rw [hframe]
  | tick hframe => exact hframe.params
  | lifecycle _ hframe => exact hframe.params

/-- No instruction writes an input but the pin driver's answers (R34, R37). -/
theorem exec_inputs {i : Instr} {s t : State} (h : exec i s = .next t) :
    t.inputs = { s.inputs with ioFail := t.inputs.ioFail } := by
  cases exec_accessRow h with
  | busOnly _ hframe => exact hframe.inputs
  | playNote hframe => rw [hframe]
  | tick hframe => exact hframe.inputs
  | lifecycle _ hframe => exact hframe.inputs

/-- The noise slot is left as it was or cleared: nothing starts it (R28). -/
theorem exec_noisePlaying {i : Instr} {s t : State} (h : exec i s = .next t)
    (hs : s.noisePlaying = false) : t.noisePlaying = false := by
  cases exec_accessRow h with
  | busOnly _ hframe => obtain ⟨-, -, hnoise, -⟩ := hframe; rw [hnoise, hs]
  | playNote hframe => rw [hframe]; exact hs
  | tick hframe => rw [hframe.noise, hs]
  | lifecycle _ hframe =>
    obtain ⟨-, hnoise⟩ | ⟨-, hnoise⟩ := hframe.store
    · rw [hnoise, hs]
    · exact hnoise

/-- Settles O54, by the rows of the access table: a tick restarts no voice, BEGIN and END keep the store or
clear it. -/
theorem onlyPlayNoteStartsVoices : Obligations.OnlyPlayNoteStartsVoices := by
  intro i s t hexec hnotPlay j
  cases exec_accessRow hexec with
  | busOnly _ hframe =>
    obtain ⟨-, hvoices, -⟩ := hframe
    simp [State.voice, hvoices]
  | playNote => cases hnotPlay
  | tick hframe =>
    obtain ⟨hplaying, hconfig, hbase⟩ := hframe.voices j
    exact ⟨hplaying, .inl ⟨hconfig, hbase⟩⟩
  | lifecycle hi hframe =>
    obtain ⟨hvoices, -⟩ | ⟨hvoices, -⟩ := hframe.store
    · simp [State.voice, hvoices]
    · have hzero : t.voice j = Voice.zero := by simp [State.voice, hvoices]
      exact ⟨fun h => (by rw [hzero] at h; cases h), .inr ⟨hi, hzero⟩⟩

/-- Settles O55: each clause is the frame of its row. -/
theorem accessTableFrame : Obligations.AccessTableFrame := by
  intro i s t hexec
  refine ⟨fun hi => exec_busOnly_sameOffBus hi hexec, fun hi => exec_playNote_frame hi hexec, ?_,
    fun hi => (exec_lifecycle_frame hi hexec).pins, exec_inputs hexec⟩
  rintro now rfl
  have hframe := execTick_frame hexec
  exact ⟨hframe.started, hframe.noise⟩

/-! ## Every step: constants, flags, reset -/

/-- Fetching leaves the constants. -/
theorem fetch_params {s s' : State} {w : RawWord} (h : s.fetch = some (w, s')) :
    s'.params = s.params := by
  obtain ⟨rest, rfl⟩ | rfl | rfl := fetch_cases h
  · cases rest <;> rfl
  · rfl
  · rfl

/-- The environment's frame leaves the constants, a reset included (R32). -/
theorem arrive_params (s : State) : s.arrive.params = s.params := by
  unfold State.arrive
  split
  · rfl
  · dsimp only
    split <;> rfl

/-- Settles O52: neither the fetch nor the instruction nor the environment's frame writes them. -/
theorem constantsNeverChange : Obligations.ConstantsNeverChange := by
  intro s t hstep
  obtain ⟨-, rfl⟩ | ⟨w, s', i, u, hfetch, -, hexec, rfl⟩ := step_next_cases hstep
  · exact arrive_params s
  · rw [arrive_params, exec_params hexec, fetch_params hfetch]

/-- The flags of the fault path agree (R211, R214). -/
def State.faultFlagsOk (s : State) : Prop :=
  (s.fault = true ↔ s.faultCause ≠ .none) ∧ (s.cutByte ≠ none → s.fault = true)

/-- Events that happen touch no flag, and a failing one sets `fault` with its cause (R214). -/
theorem busKept_faultFlagsOk : BusKept State.faultFlagsOk where
  same := by
    rintro s t ⟨-, hfault, hcause, -, -, -, -, hcut, -⟩ hs
    rwa [State.faultFlagsOk, hfault, hcause, hcut]
  drive := by
    intro s es _ _ hs
    obtain hgo | ⟨pre, e, post, -, -, habort⟩ := drivePins_cases es s
    · obtain ⟨-, -, hfault, hcause, hcut⟩ := applyEvents_frame es s
      rw [hgo]
      rwa [Progress.state_going, State.faultFlagsOk, hfault, hcause, hcut]
    · rw [habort]; simp [State.faultFlagsOk]
  config := by intro s _; simp [State.faultFlagsOk]

/-- Every operation keeps the agreement of the flags. -/
theorem exec_operation_flagsOk {i : Instr} {s t : State} (hi : isOperation i = true)
    (hs : s.flagsOk) (h : exec i s = .next t) : t.flagsOk := by
  obtain ⟨hcause, hcut, hnoise⟩ := hs
  obtain ⟨hcause', hcut'⟩ := exec_operation_keeps busKept_faultFlagsOk hi ⟨hcause, hcut⟩ h
  exact ⟨hcause', hcut', exec_noisePlaying h hnoise⟩

/-- The flags do not look at the inputs. -/
theorem sameButInputs.flagsOk {s t : State} (h : sameButInputs s t) (hs : s.flagsOk) : t.flagsOk := by
  rw [h]; exact hs

theorem arrive_flagsOk {s : State} (hs : s.flagsOk) : s.arrive.flagsOk :=
  arrive_keeps hardReset_flagsOk (fun _ _ h => h.flagsOk) hs

/-- Settles O51: from a quiescent state a step runs at most one operation (`step_quiescent`), which keeps
the flags agreeing, as the environment's frame does. -/
theorem everyStepKeepsFlagsAgreeing : Obligations.EveryStepKeepsFlagsAgreeing := by
  intro s t hquiet hflags hstep
  obtain ⟨-, hn⟩ | ⟨i, s', u, hi, hsame, -, -, hexec, hn⟩ := step_quiescent hquiet <;>
    rw [hn] at hstep <;> cases hstep
  · exact arrive_flagsOk hflags
  · exact arrive_flagsOk (exec_operation_flagsOk hi (hsame.flagsOk hflags) hexec)

/-- A frame that asserts reset puts the CORE at the reset values (R36, R240). -/
theorem arrive_reset {s : State} {f : EnvFrame} {rest : List EnvFrame}
    (hscript : s.inputs.script = f :: rest) (hreset : f.reset = true) :
    s.arrive = { State.reset with params := s.params, inputs := s.inputs.after f rest } := by
  simp [State.arrive, hscript, hreset, State.hardReset]

/-- Settles O30: what the step did keeps the constants and the coming frame, and that frame's reset puts
everything else at its reset value. -/
theorem resetRestoresEverything : Obligations.ResetRestoresEverything := by
  intro s t f rest hscript hreset hstep
  obtain ⟨-, rfl⟩ | ⟨w, s', i, u, hfetch, -, hexec, rfl⟩ := step_next_cases hstep
  · rw [arrive_reset hscript hreset]
  · obtain ⟨-, hscript'⟩ := fetch_keeps_trace_script hfetch
    have hparams : u.params = s.params := by rw [exec_params hexec, fetch_params hfetch]
    have hframe : u.inputs.script = f :: rest := by rw [exec_inputs hexec]; exact hscript'.trans hscript
    rw [arrive_reset hframe hreset, hparams]

/-! ## The two ports (R34, R201, R218) -/

/-- An idle, ready CORE fetches from its ports. -/
theorem fetch_idle {s : State} (hseq : s.seq = .idle) (hbusy : s.busy = false) :
    s.fetch = s.acceptRequest := by
  simp [State.fetch, State.ready, hseq, hbusy]

/-- Settles O57: the three outcomes of `acceptRequest`, each with the step it leads to. -/
theorem portsAcceptOneRequest : Obligations.PortsAcceptOneRequest := by
  intro s hseq hbusy
  have hfetch := fetch_idle hseq hbusy
  refine ⟨fun r hcmd hfirst => ?_, fun htick hfirst => ?_, fun hcmd htick => ?_⟩
  · refine stepRunsTheDecodedInstruction s s.takeCmd (.cmd r s.inputs.cfgOk s.inputs.now) _ ?_ rfl
    rw [hfetch]
    obtain hno | hno := hfirst <;> simp [State.acceptRequest, hcmd, hno]
  · refine stepRunsTheDecodedInstruction s s.takeTick (.tick s.inputs.now) _ ?_ rfl
    rw [hfetch]
    obtain hnone | hyes := hfirst
    · simp [State.acceptRequest, hnone, htick]
    · cases hcmd : s.inputs.cmdPort <;> simp [State.acceptRequest, hcmd, htick, hyes]
  · have hnone : s.fetch = none := by rw [hfetch]; simp [State.acceptRequest, hcmd, htick]
    simp [step, hnone]

/-! ## BEGIN (R36, R197) -/

@[simp] theorem askedOf_idleEvents : askedOf idleEvents = 2 := rfl

/-- The two drives of BEGIN and END on idle pins change nothing but the log, the sequencer and the
answers. -/
theorem applyEvents_idleEvents {s : State} (h : s.pinsIdle) :
    applyEvents idleEvents s = s.wrote [] idleEvents := by
  obtain ⟨hd, hwe⟩ := h
  have hanswers : s.inputs.ioFail.tail.tail = s.inputs.ioFail.drop 2 := by
    rw [← List.drop_one, List.drop_tail]
  rw [State.wrote, askedOf_idleEvents]
  simp [idleEvents, applyEvent, PinEvent.answersLeft, PinEvent.asks, driveField, pinMask, hd, hwe,
    hanswers]

/-- In a fault-free run, from idle pins, BEGIN and END log their two drives, write `started` and are
complete. -/
theorem settlePins_answersOk (b : Bool) {s : State} (hok : s.answersOk) (hpins : s.pinsIdle) :
    settlePins b s = ((s.wrote [] idleEvents).setStarted b).complete := by
  rw [settlePins, drivePins_answersOk hok, applyEvents_idleEvents hpins]
  rfl

/-- Settles O26: on the cleared state both drives happen (`settlePins_answersOk`). -/
theorem beginInitialises : Obligations.BeginInitialises := by
  intro s now hfault hok hpins
  have hsettle := settlePins_answersOk true
    (s := (s.accept .lifecycle).clearVoices.setLastTick now) hok hpins
  obtain ⟨hd, hwe⟩ := hpins
  have hevents : idleEvents = [.data 7 0 0, .weN true] := rfl
  simp only [exec, execBegin, hfault, hsettle]
  simpa [State.complete, State.setStarted, State.wrote, State.setLastTick, State.clearVoices,
    State.accept, hfault, hd, hwe] using hevents

end Sys2Proof.Machine
end

section
/-! PROOFS. State (10_state.md): the pins a pin step drives (R33, R111 to R118), and the position of the
sequencer within a transaction (R30, R117). -/

namespace Sys2Proof.Machine

open Sys2Proof

/-! ## What a drive leaves on the pins (R17) -/

/-- The mask of the pins `hi` down to `lo`, bit by bit. -/
theorem getElem_pinMask : ∀ hi lo k : Fin 8, lo ≤ hi →
    (pinMask hi lo)[k] = decide (lo ≤ k ∧ k ≤ hi) := by decide

/-- `D[hi:lo] <- v`, bit by bit: the driven pins take `v`, the others keep their level. -/
theorem getElem_driveField (d v : Byte) {hi lo k : ℕ} (hhi : hi < 8) (hlo : lo ≤ hi) (hk : k < 8) :
    (driveField d hi lo v)[k] = if lo ≤ k ∧ k ≤ hi then v[k - lo] else d[k] := by
  have hmask : (pinMask hi lo)[k] = decide (lo ≤ k ∧ k ≤ hi) :=
    getElem_pinMask ⟨hi, hhi⟩ ⟨lo, by omega⟩ ⟨k, hk⟩ hlo
  simp only [driveField, BitVec.getElem_or, BitVec.getElem_and, BitVec.getElem_not,
    BitVec.getElem_shiftLeft, hmask]
  by_cases h : lo ≤ k ∧ k ≤ hi <;> simp [h]

/-- The byte each pin step leaves on the data pins, from any byte `d`: its own pins by its drives, the
others as they were (R111 to R115, R118). -/
theorem pinsAfter_pinSteps (d : Byte) (osc : Osc) (lo level : BitVec 4) (hi : BitVec 6)
    (shift : BitVec 2) (ntype : BitVec 1) :
    pinsAfter d (toneRegisterEvents osc) =
      (1#1 ++ osc ++ 0#1 ++ d.extractLsb' 0 4).cast (by decide) ∧
    pinsAfter d noiseRegisterEvents = (0b1110#4 ++ d.extractLsb' 0 4).cast (by decide) ∧
    pinsAfter d (frequencyLowEvents lo) = (1#1 ++ d.extractLsb' 4 3 ++ lo).cast (by decide) ∧
    pinsAfter d (frequencyHighEvents hi) = (0#1 ++ d.extractLsb' 6 1 ++ hi).cast (by decide) ∧
    pinsAfter d (attenuationEvents level) = (d.extractLsb' 5 3 ++ 1#1 ++ level).cast (by decide) ∧
    pinsAfter d (noiseControlEvents ntype shift) =
      (d.extractLsb' 3 5 ++ shift ++ ntype).cast (by decide) := by
  refine ⟨?_, ?_, ?_, ?_, ?_, ?_⟩
  all_goals
    refine BitVec.eq_of_getElem_eq fun k hk => ?_
    simp only [toneRegisterEvents, noiseRegisterEvents, frequencyLowEvents, frequencyHighEvents,
      attenuationEvents, noiseControlEvents, pinsAfter, BitVec.getElem_cast, BitVec.getElem_append]
    interval_cases k <;> simp [getElem_driveField]

/-! ## Pin steps (R111 to R115, R118) -/

/-- A fault-free step that only drives data pins pulses nothing and leaves everything else to the log, the
sequencer and the answers. -/
theorem exec_onlyData {i : Instr} {s : State} {d : Byte} {es : List PinEvent} (hok : s.answersOk)
    (hexec : exec i s = busSteps es s) (hes : onlyData es = true) (hd : pinsAfter s.d es = d) :
    ∃ t, exec i s = .next t ∧ t.d = d ∧ t.weN = s.weN ∧ t.trace = s.trace ∧
      t.pinLog = s.pinLog ++ es ∧ t.seq = s.seq.after es ∧ sameOffBus s t ∧ sameFlags s t := by
  obtain ⟨hoff, hflags⟩ := applyEvents_frame es s
  refine ⟨applyEvents es s, ?_, ?_, ?_, ?_, by simp, by simp, hoff, hflags⟩
  · rw [hexec, busSteps, drivePins_answersOk hok]; rfl
  all_goals rw [applyEvents_onlyData hes]
  exact hd

/-- Settles O18: each step drives data pins only (`exec_onlyData`), and leaves the byte that
`pinsAfter_pinSteps` gives. -/
theorem pinStepsDriveTheirPins : Obligations.PinStepsDriveTheirPins := by
  intro s osc lo level hi shift ntype hok drives
  obtain ⟨htone, hnoise, hlow, hhigh, hatt, hctl⟩ := pinsAfter_pinSteps s.d osc lo level hi shift ntype
  exact ⟨fun hosc => exec_onlyData hok (if_neg hosc) rfl htone, exec_onlyData hok rfl rfl hnoise,
    exec_onlyData hok rfl rfl hlow, exec_onlyData hok rfl rfl hhigh, exec_onlyData hok rfl rfl hatt,
    exec_onlyData hok rfl rfl hctl⟩

/-! ## The sequencer within a transaction (R30, R117) -/

/-- Every event moves the position on, never back: the list follows R117 from `p`. -/
def BusPos.Follows : BusPos → List PinEvent → Prop
  | _, [] => True
  | p, e :: es => p.before (p.after e) ∧ (p.after e).Follows es

theorem BusPos.follows_append {p : BusPos} {es fs : List PinEvent} :
    p.Follows (es ++ fs) ↔ p.Follows es ∧ (es.foldl BusPos.after p).Follows fs := by
  induction es generalizing p with
  | nil => simp [BusPos.Follows]
  | cons e es ih => simp [BusPos.Follows, ih, and_assoc]

/-- Data drives are events of (1), one after the other. -/
theorem BusPos.follows_onlyData {es : List PinEvent} (hes : onlyData es = true) (c k : ℕ) :
    (BusPos.mk c (.present k)).Follows es ∧
    es.foldl BusPos.after (BusPos.mk c (.present k)) = BusPos.mk c (.present (k + es.length)) := by
  induction es generalizing k with
  | nil => exact ⟨trivial, rfl⟩
  | cons e es ih =>
    cases e with
    | data hi lo v =>
      obtain ⟨hfollows, hend⟩ := ih (by simpa [onlyData] using hes) (k + 1)
      refine ⟨⟨?_, hfollows⟩, ?_⟩
      · simp [BusPos.before, BusPos.after, BusStep.order]
      · rw [List.length_cons, ← Nat.succ_add_eq_add_succ]; exact hend
    | weN level => simp [onlyData] at hes
    | wait t => simp [onlyData] at hes

/-- A BusWrite follows R117 and completes one transaction. -/
theorem BusPos.follows_busWrite {es : List PinEvent} (hes : onlyData es = true) (p : Config.Params)
    (c : ℕ) :
    (BusPos.mk c (.present 0)).Follows (es ++ latchEvents p) ∧
    (es ++ latchEvents p).foldl BusPos.after (BusPos.mk c (.present 0)) =
      BusPos.mk (c + 1) (.present 0) := by
  obtain ⟨hfollows, hend⟩ := BusPos.follows_onlyData hes c 0
  rw [BusPos.follows_append, List.foldl_append, hend]
  refine ⟨⟨hfollows, ?_⟩, rfl⟩
  simp [latchEvents, BusPos.Follows, BusPos.before, BusPos.after, BusStep.order]

/-- Every list of pin events an operation drives follows R117 from its start (for the two drives of BEGIN
and END, log 1). -/
theorem Transaction.follows {p : Config.Params} {es : List PinEvent} (h : Transaction p es) :
    BusPos.start.Follows es := by
  cases h with
  | divisor i n =>
    have hend : (toneDivLoEvents p (oscOf i) (divLo n)).foldl BusPos.after .start =
        BusPos.mk 1 (.present 0) := (BusPos.follows_busWrite rfl p 0).2
    rw [divisorEvents, BusPos.follows_append, hend]
    exact ⟨(BusPos.follows_busWrite rfl p 0).1, (BusPos.follows_busWrite rfl p 1).1⟩
  | toneAtt i level => exact (BusPos.follows_busWrite rfl p 0).1
  | noiseCtl ntype shift => exact (BusPos.follows_busWrite rfl p 0).1
  | noiseAtt level => exact (BusPos.follows_busWrite rfl p 0).1
  | idle => simp [idleEvents, BusPos.Follows, BusPos.start, BusPos.before, BusPos.after, BusStep.order]

/-- The pins and the trace of `t` agree with the position `p` of a step whose first event met the trace at
length `n`: `WE_n` is low from (2) to (4), and each pulse raised has its byte in the trace (R117, R53). -/
structure BusPos.Shows (n : ℕ) (p : BusPos) (t : State) : Prop where
  weN : t.weN = false ↔ p.step = .lowered ∨ p.step = .held
  trace : t.trace.length = n + p.complete + if p.step = .raised then 1 else 0

/-- The order of R117 is strict: an event that is no next one, which leaves the position, moves nothing on. -/
theorem BusPos.not_before_self (p : BusPos) : ¬p.before p := by simp [BusPos.before]

/-- An event that moves the position on keeps the pins and the trace in agreement with it. -/
theorem BusPos.Shows.applyEvent {n : ℕ} {p : BusPos} {t : State} {e : PinEvent} (h : p.Shows n t)
    (hbefore : p.before (p.after e)) : (p.after e).Shows n (applyEvent e t) := by
  obtain ⟨hwe, htrace⟩ := h
  obtain ⟨c, step⟩ := p
  cases step with
  | present k =>
    have hhigh : t.weN = true := by simpa using hwe
    cases e with
    | data hi lo v => exact ⟨by simp [BusPos.after, hhigh], by simpa [BusPos.after] using htrace⟩
    | weN level =>
      cases level <;>
        exact ⟨by simp [BusPos.after], by simpa [BusPos.after, hhigh] using htrace⟩
    | wait u => exact absurd hbefore (BusPos.not_before_self _)
  | lowered =>
    have hlow : t.weN = false := by simpa using hwe
    cases e with
    | wait u => exact ⟨by simp [BusPos.after, hlow], by simpa [BusPos.after] using htrace⟩
    | data | weN => exact absurd hbefore (BusPos.not_before_self _)
  | held =>
    have hlow : t.weN = false := by simpa using hwe
    cases e with
    | weN level =>
      cases level with
      | true => exact ⟨by simp [BusPos.after], by simpa [BusPos.after, hlow] using htrace⟩
      | false => exact absurd hbefore (BusPos.not_before_self _)
    | data | wait => exact absurd hbefore (BusPos.not_before_self _)
  | raised =>
    have hhigh : t.weN = true := by simpa using hwe
    cases e with
    | data hi lo v =>
      exact ⟨by simp [BusPos.after, hhigh], by simpa [BusPos.after, add_assoc] using htrace⟩
    | weN | wait => exact absurd hbefore (BusPos.not_before_self _)

/-- Events that follow R117 keep the agreement. -/
theorem BusPos.Shows.applyEvents {n : ℕ} {p : BusPos} {t : State} {es : List PinEvent}
    (h : p.Shows n t) (hfollows : p.Follows es) :
    (es.foldl BusPos.after p).Shows n (applyEvents es t) := by
  induction es generalizing p t with
  | nil => exact h
  | cons e es ih =>
    obtain ⟨hbefore, hrest⟩ := hfollows
    exact ih (h.applyEvent hbefore) hrest

/-- A state with `WE_n` high shows the start. -/
theorem BusPos.shows_start {s : State} (h : s.weN = true) : BusPos.start.Shows s.trace.length s :=
  ⟨by simp [BusPos.start, h], rfl⟩

/-! ## The first failing event (R212, R214) -/

theorem askedOf_cons (e : PinEvent) (es : List PinEvent) :
    askedOf (e :: es) = askedOf es + if e.asks then 1 else 0 := List.countP_cons

/-- Events whose answers are all ok happen, and use those answers up. -/
theorem drivePins_replicate_false {es : List PinEvent} {s : State} {rest : List Bool}
    (h : s.inputs.ioFail = List.replicate (askedOf es) false ++ rest) :
    drivePins es s = .going (applyEvents es s) ∧ (applyEvents es s).inputs.ioFail = rest := by
  induction es generalizing s with
  | nil => exact ⟨rfl, h⟩
  | cons e es ih =>
    have hnext : (applyEvent e s).inputs.ioFail = List.replicate (askedOf es) false ++ rest := by
      cases e <;> simp [h, askedOf_cons, PinEvent.asks, List.replicate_succ]
    have hok : s.fails e = false := by
      cases e <;> simp [State.fails, h, askedOf_cons, PinEvent.asks, List.replicate_succ]
    obtain ⟨hgo, hanswers⟩ := ih hnext
    exact ⟨by simp [drivePins, hok, hgo], hanswers⟩

/-- The first failing event aborts the list: those before it happen, and the fault state is entered there. -/
theorem drivePins_first_failing {pre post : List PinEvent} {e : PinEvent} {s : State} {rest : List Bool}
    (hasks : e.asks = true)
    (h : s.inputs.ioFail = List.replicate (askedOf pre) false ++ true :: rest) :
    drivePins (pre ++ e :: post) s = .aborted (applyEvents pre s).raiseBusIOError := by
  obtain ⟨hgo, hanswers⟩ := drivePins_replicate_false h
  have hfails : (applyEvents pre s).fails e = true := by simp [State.fails, hasks, hanswers]
  simp [drivePins_append, hgo, drivePins, hfails]

/-- Settles O60: the transaction's list follows R117 from its start (`Transaction.follows`), so the
position, the pins and the trace move together (`BusPos.Shows.applyEvents`); a failing event ends in the
fault state (`drivePins_first_failing`). -/
theorem sequencerFollowsTheTransaction : Obligations.SequencerFollowsTheTransaction := by
  intro s place pre post e rest hseq hpins htrans
  obtain ⟨-, hwe⟩ := hpins
  obtain ⟨hpre, hbefore, -⟩ := BusPos.follows_append.1 htrans.follows
  obtain ⟨hweN, htrace⟩ := (BusPos.shows_start hwe).applyEvents hpre
  have hpos (es : List PinEvent) :
      (applyEvents es s).seq = .inside place (es.foldl BusPos.after .start) := by
    rw [applyEvents_seq, hseq, Seq.after_inside]
  refine ⟨⟨pre.foldl BusPos.after .start, hpos pre, ?_, hbefore, hweN, htrace⟩, fun hasks hanswers => ?_,
    fun hok => drivePins_answersOk hok _⟩
  · rw [hpos, List.foldl_append]; rfl
  · exact ⟨_, drivePins_first_failing hasks hanswers, rfl, rfl⟩

end Sys2Proof.Machine
end

section
/-! PROOFS. Memory (20_memory.md): the fields of the bus words, and the grammar of the bus trace (R59, R77
to R79). -/

namespace Sys2Proof.Machine

open Sys2Proof

/-! ## The fields of the bus words (R72 to R77) -/

/-- A TONE_DIV_LO byte, `1 oo 0 nnnn`, field by field. -/
theorem fields_toneDivLoByte (osc : Osc) (lo : BitVec 4) :
    field (toneDivLoByte osc lo) 7 1 = 1 ∧ field (toneDivLoByte osc lo) 5 2 = osc ∧
    field (toneDivLoByte osc lo) 4 1 = 0 ∧ field (toneDivLoByte osc lo) 0 4 = lo ∧
    field (toneDivLoByte osc lo) 4 3 = osc ++ 0#1 := by
  revert osc lo; decide

/-- A TONE_DIV_HI byte, `0 0 hhhhhh`, field by field. -/
theorem fields_toneDivHiByte (hi : BitVec 6) :
    field (toneDivHiByte hi) 7 1 = 0 ∧ field (toneDivHiByte hi) 6 1 = 0 ∧
    field (toneDivHiByte hi) 0 6 = hi := by
  revert hi; decide

/-- A TONE_ATT byte, `1 oo 1 aaaa`, field by field. -/
theorem fields_toneAttByte (osc : Osc) (level : Att) :
    field (toneAttByte osc level) 7 1 = 1 ∧ field (toneAttByte osc level) 5 2 = osc ∧
    field (toneAttByte osc level) 4 1 = 1 ∧ field (toneAttByte osc level) 0 4 = level := by
  revert osc level; decide

/-! ## Decoding the bus words (R77) -/

theorem decodeBus_toneDivLoByte {osc : Osc} (hosc : osc ≠ 3) (lo : BitVec 4) :
    decodeBus (toneDivLoByte osc lo) = .ok (.toneDivLo osc lo) := by
  obtain ⟨hmarker, hfield, hkind, hpayload, -⟩ := fields_toneDivLoByte osc lo
  simpa [decodeBus, hmarker, hfield, hkind, hpayload] using fun h => absurd h hosc

theorem decodeBus_toneDivHiByte (hi : BitVec 6) :
    decodeBus (toneDivHiByte hi) = .ok (.toneDivHi hi) := by
  obtain ⟨hmarker, hbit6, hpayload⟩ := fields_toneDivHiByte hi
  simp [decodeBus, hmarker, hbit6, hpayload]

theorem decodeBus_toneAttByte {osc : Osc} (hosc : osc ≠ 3) (level : Att) :
    decodeBus (toneAttByte osc level) = .ok (.toneAtt osc level) := by
  obtain ⟨hmarker, hfield, hkind, hpayload⟩ := fields_toneAttByte osc level
  simpa [decodeBus, hmarker, hfield, hkind, hpayload] using hosc

theorem decodeBus_noiseCtlByte : ∀ (shift : BitVec 2) (ntype : BitVec 1),
    decodeBus (noiseCtlByte shift ntype) = .ok (.noiseCtl shift ntype) := by decide

theorem decodeBus_noiseAttByte : ∀ level : Att,
    decodeBus (noiseAttByte level) = .ok (.noiseAtt level) := by decide

/-! ## The grammar of the bus trace (R59, R77 to R79) -/

/-- A trace is read piece by piece, what is pending carried over. -/
theorem scanTrace_append (pending : Bool) (bs cs : List Byte) :
    scanTrace pending (bs ++ cs) = (scanTrace pending bs).bind fun q => scanTrace q cs := by
  induction bs generalizing pending with
  | nil => rfl
  | cons b bs ih =>
    simp only [List.cons_append, scanTrace, ih]
    cases decodeBus b with
    | error e => rfl
    | ok i => cases i <;> cases pending <;> rfl

/-- The grammar holds of a first part of a trace: one read to the end was read at every byte. -/
theorem exists_scanTrace_of_append {pending q : Bool} {bs cs : List Byte}
    (h : scanTrace pending (bs ++ cs) = some q) : ∃ r, scanTrace pending bs = some r := by
  rw [scanTrace_append] at h
  obtain ⟨r, hr, -⟩ := Option.bind_eq_some_iff.1 h
  exact ⟨r, hr⟩

/-- A whole transaction appends bytes of the grammar that leave no TONE_DIV_LO waiting (R79, R120). -/
theorem Transaction.scanTrace_trace {p : Config.Params} {es : List PinEvent} (h : Transaction p es)
    {s : State} (hpins : s.pinsIdle) (hs : scanTrace false s.trace = some false) :
    scanTrace false (applyEvents es s).trace = some false := by
  obtain ⟨hd, hwe⟩ := hpins
  cases h with
  | divisor i n =>
    simp [applyEvents_divisor hd, divisorBytes, scanTrace_append, hs, scanTrace,
      decodeBus_toneDivLoByte (oscOf_ne_three i), decodeBus_toneDivHiByte]
  | toneAtt i level =>
    simp [applyEvents_toneAtt hd, scanTrace_append, hs, scanTrace,
      decodeBus_toneAttByte (oscOf_ne_three i)]
  | noiseCtl ntype shift =>
    simp [applyEvents_noiseCtl hd, scanTrace_append, hs, scanTrace, decodeBus_noiseCtlByte]
  | noiseAtt level =>
    simp [applyEvents_noiseAtt hd, scanTrace_append, hs, scanTrace, decodeBus_noiseAttByte]
  | idle => simp [idleEvents, hwe, hs]

/-- The grammar, with the idle pins from which every transaction starts. -/
def State.traceOkFromIdle (s : State) : Prop := s.pinsIdle ∧ s.traceOk

/-- A transaction that happens whole keeps the grammar; one that a BusIOError cuts leaves the first of its
bytes and sets `fault` (R79, R214). -/
theorem busKept_traceOkFromIdle : BusKept State.traceOkFromIdle where
  same := by
    rintro s t hsame ⟨hpins, htrace⟩
    refine ⟨busKept_pinsIdle.same s t hsame hpins, ?_⟩
    obtain ⟨-, hfault, -, -, -, htrace', -⟩ := hsame
    rwa [State.traceOk, hfault, htrace']
  drive := by
    rintro s es hfault htrans ⟨hpins, htrace⟩
    refine ⟨busKept_pinsIdle.drive s es hfault htrans hpins, ?_⟩
    have hs : scanTrace false s.trace = some false := by simpa [State.traceOk, hfault] using htrace
    have hwhole := htrans.scanTrace_trace hpins hs
    obtain hgo | ⟨pre, e, post, rfl, -, habort⟩ := drivePins_cases es s
    · rw [hgo]; exact .inl hwhole
    · obtain ⟨-, bytes, hbytes, -⟩ := AppendsAtMost.of_applyEvents (e :: post) (applyEvents pre s)
      rw [applyEvents_append, hbytes] at hwhole
      obtain ⟨pending, hpre⟩ := exists_scanTrace_of_append hwhole
      rw [habort]
      cases pending with
      | false => exact .inl hpre
      | true => exact .inr ⟨hpre, rfl⟩
  config := by
    rintro s ⟨hpins, htrace⟩
    exact ⟨hpins, htrace.imp id fun ⟨hpending, _⟩ => ⟨hpending, rfl⟩⟩

/-- The pins, the trace and `fault` are no inputs. -/
theorem sameButInputs.traceOkFromIdle {s t : State} (h : sameButInputs s t)
    (hs : s.traceOkFromIdle) : t.traceOkFromIdle := by
  rw [h]; exact hs

/-- Settles O49: from idle pins whole transactions keep the grammar and cut ones leave it to `fault`
(`busKept_traceOkFromIdle`), so every step does; a reset starts the trace anew. -/
theorem everyStepKeepsTraceGrammar : Obligations.EveryStepKeepsTraceGrammar := by
  intro s t hquiet htrace hstep
  have ⟨_, _, hpins⟩ := hquiet
  obtain ⟨-, htrace'⟩ := step_keeps busKept_traceOkFromIdle (fun _ => ⟨⟨rfl, rfl⟩, .inl rfl⟩)
    (fun _ _ h => h.traceOkFromIdle) hquiet ⟨hpins, htrace⟩ hstep
  exact htrace'

end Sys2Proof.Machine
end

section
/-! PROOFS. Memory (20_memory.md): what the register writes leave on the bus and in the chip image (R52 to
R58). -/

namespace Sys2Proof.Machine

open Sys2Proof

/-! ## The chip registers: a read after a write (R58) -/

theorem ChipImage.div_setDiv (c : ChipImage) (i j : Slot) (r : ChipDivisor) :
    (c.setDiv i r).div j = if j = i then r else c.div j := by
  fin_cases i <;> fin_cases j <;> rfl

@[simp] theorem ChipImage.setDiv_setDiv (c : ChipImage) (i : Slot) (q r : ChipDivisor) :
    (c.setDiv i q).setDiv i r = c.setDiv i r := by fin_cases i <;> rfl

@[simp] theorem ChipImage.att_setDiv (c : ChipImage) (i j : Slot) (r : ChipDivisor) :
    (c.setDiv i r).att j = c.att j := by fin_cases i <;> rfl

@[simp] theorem ChipImage.sel_setDiv (c : ChipImage) (i : Slot) (r : ChipDivisor) :
    (c.setDiv i r).sel = c.sel := by fin_cases i <;> rfl

theorem ChipImage.att_setAtt (c : ChipImage) (i j : Slot) (a : Option Att) :
    (c.setAtt i a).att j = if j = i then a else c.att j := by
  fin_cases i <;> fin_cases j <;> rfl

@[simp] theorem ChipImage.div_setAtt (c : ChipImage) (i j : Slot) (a : Option Att) :
    (c.setAtt i a).div j = c.div j := by fin_cases i <;> rfl

@[simp] theorem ChipImage.sel_setAtt (c : ChipImage) (i : Slot) (a : Option Att) :
    (c.setAtt i a).sel = c.sel := by fin_cases i <;> rfl

@[simp] theorem ChipImage.nctl_setAtt (c : ChipImage) (i : Slot) (a : Option Att) :
    (c.setAtt i a).nctl = c.nctl := by fin_cases i <;> rfl

@[simp] theorem ChipImage.natt_setAtt (c : ChipImage) (i : Slot) (a : Option Att) :
    (c.setAtt i a).natt = c.natt := by fin_cases i <;> rfl

/-- The selection, which every latch byte writes (R58). -/
def ChipImage.select (c : ChipImage) (id : BitVec 3) : ChipImage := { c with sel := some id }

@[simp] theorem ChipImage.sel_select (c : ChipImage) (id : BitVec 3) :
    (c.select id).sel = some id := rfl

@[simp] theorem ChipImage.div_select (c : ChipImage) (id : BitVec 3) (j : Slot) :
    (c.select id).div j = c.div j := rfl

@[simp] theorem ChipImage.att_select (c : ChipImage) (id : BitVec 3) (j : Slot) :
    (c.select id).att j = c.att j := rfl

@[simp] theorem ChipImage.nctl_select (c : ChipImage) (id : BitVec 3) :
    (c.select id).nctl = c.nctl := rfl

@[simp] theorem ChipImage.natt_select (c : ChipImage) (id : BitVec 3) :
    (c.select id).natt = c.natt := rfl

/-! ## What a tone word writes in the image (R56, R58) -/

/-- TONE_ATT selects and writes the attenuation register of its oscillator. -/
theorem ChipImage.byte_toneAttByte (c : ChipImage) (i : Slot) (level : Att) :
    c.byte (toneAttByte (oscOf i) level) =
      (c.select (field (toneAttByte (oscOf i) level) 4 3)).setAtt i (some level) := by
  obtain ⟨hmarker, hfield, hkind, hpayload⟩ := fields_toneAttByte (oscOf i) level
  rw [ChipImage.byte, if_pos hmarker, ChipImage.latchByte, hfield, hkind, hpayload, slotOf_oscOf]
  rfl

/-- TONE_DIV_LO selects the divisor register of its oscillator and writes its low half. -/
theorem ChipImage.byte_toneDivLoByte (c : ChipImage) (i : Slot) (lo : BitVec 4) :
    c.byte (toneDivLoByte (oscOf i) lo) =
      (c.select (oscOf i ++ 0#1)).setDiv i { c.div i with lo := some lo } := by
  obtain ⟨hmarker, hfield, hkind, hpayload, hid⟩ := fields_toneDivLoByte (oscOf i) lo
  rw [ChipImage.byte, if_pos hmarker, ChipImage.latchByte, hfield, hkind, hpayload, hid, slotOf_oscOf]
  rfl

/-- TONE_DIV_HI writes the high half of the divisor register selected last. -/
theorem ChipImage.byte_toneDivHiByte {c : ChipImage} {i : Slot} (hsel : c.sel = some (oscOf i ++ 0#1))
    (hi : BitVec 6) :
    c.byte (toneDivHiByte hi) = c.setDiv i { c.div i with hi := some hi } := by
  obtain ⟨hmarker, -, hpayload⟩ := fields_toneDivHiByte hi
  have hslot : divisorSlot (oscOf i ++ 0#1) = some i := by fin_cases i <;> rfl
  simp [ChipImage.byte, ChipImage.dataByte, hmarker, hpayload, hsel, hslot]

/-- The two halves of a divisor make it whole (R56). -/
theorem ChipDivisor.value_divHi_divLo (n : Div) :
    ChipDivisor.value { lo := some (divLo n), hi := some (divHi n) } = some n := by
  have happend : divHi n ++ divLo n = n :=
    (BitVec.extractLsb'_append_extractLsb'_eq_extractLsb' rfl).trans
      BitVec.extractLsb'_eq_self
  simp [ChipDivisor.value, happend]

/-- Both bytes of a divisor write reach the register of their oscillator, and no other register (R56). -/
theorem ChipImage.foldl_byte_divisorBytes (c : ChipImage) (i : Slot) (n : Div) :
    (divisorBytes (oscOf i) n).foldl ChipImage.byte c =
      (c.select (oscOf i ++ 0#1)).setDiv i { lo := some (divLo n), hi := some (divHi n) } := by
  have hsel (r : ChipDivisor) :
      ((c.select (oscOf i ++ 0#1)).setDiv i r).sel = some (oscOf i ++ 0#1) := by simp
  simp [divisorBytes, ChipImage.byte_toneDivLoByte, ChipImage.byte_toneDivHiByte (hsel _),
    ChipImage.div_setDiv]

/-! ## A fault-free direct write, and what it adds to the image (R121 to R123) -/

/-- A direct tone write whose events write `bytes`, accepted and completed. -/
theorem directToneWrite_oscOf_wrote {s : State} {i : Slot} {es : List PinEvent} {bytes : List Byte}
    (hrunning : s.running = true) (hok : s.answersOk)
    (hwrote : applyEvents es (s.accept .direct) = (s.accept .direct).wrote bytes es) :
    directToneWrite (oscOf i) es s = .next ((s.accept .direct).wrote bytes es).complete := by
  rw [directToneWrite, if_neg (oscOf_ne_three i), directWrite, if_pos hrunning, runDirect,
    drivePins_answersOk (answersOk_accept hok _), hwrote, Progress.finish_going]

/-- With no pulse cut, the image takes the bytes of a direct write one after the other (R58). -/
theorem chipImage_direct_wrote {s : State} (hcut : s.cutByte = none) (bytes : List Byte)
    (es : List PinEvent) :
    chipImage ((s.accept .direct).wrote bytes es).complete =
      bytes.foldl ChipImage.byte (chipImage s) := by
  simp [chipImage, hcut, imageOf]

/-- Settles O13: the one TONE_ATT byte of MUTE_TONE writes attenuation 15 (`ChipImage.byte_toneAttByte`). -/
theorem muteToneSilencesTheImage : Obligations.MuteToneSilencesTheImage := by
  intro s i hrunning hok ⟨hd, _⟩ hcut
  have hwrote := applyEvents_toneAtt (s := s.accept .direct) hd s.params (oscOf i) silence
  refine ⟨_, directToneWrite_oscOf_wrote hrunning hok hwrote, ?_⟩
  rw [chipImage_direct_wrote hcut, List.foldl_cons, List.foldl_nil, ChipImage.byte_toneAttByte]
  exact ⟨by simp [ChipImage.att_setAtt, silence], by simp [silence],
    fun j hj => by simp [ChipImage.att_setAtt, hj], by simp, by simp, by simp⟩

/-- Settles O14: the two bytes of SET_TONE write both halves (`ChipImage.foldl_byte_divisorBytes`). -/
theorem setToneReachesTheImage : Obligations.SetToneReachesTheImage := by
  intro s i f hrunning hok ⟨hd, _⟩ hcut
  have hwrote := applyEvents_divisor (s := s.accept .direct) hd s.params (oscOf i)
    (quantize s.params.masterClockHz f)
  refine ⟨_, directToneWrite_oscOf_wrote hrunning hok hwrote, ?_⟩
  rw [chipImage_direct_wrote hcut, ChipImage.foldl_byte_divisorBytes]
  exact ⟨by simp [ChipImage.div_setDiv, ChipDivisor.value_divHi_divLo],
    fun j hj => by simp [ChipImage.div_setDiv, hj], by simp⟩

/-! ## The bus words as internal steps (R52, R77) -/

/-- Fault-free internal steps whose events write `bytes`. -/
theorem busSteps_wrote {s : State} {es : List PinEvent} {bytes : List Byte} (hok : s.answersOk)
    (hwrote : applyEvents es s = s.wrote bytes es) : busSteps es s = .next (s.wrote bytes es) := by
  rw [busSteps, drivePins_answersOk hok, hwrote, Progress.state_going]

/-- Settles O17: each word's events are one BusWrite of its byte (`applyEvents_busWrite`), and in a
fault-free run they all happen. -/
theorem busWordsWriteTheirByte : Obligations.BusWordsWriteTheirByte := by
  intro s osc lo level hi shift ntype hok ⟨hd, _⟩
  exact ⟨fun hosc => (if_neg hosc).trans (busSteps_wrote hok (applyEvents_toneDivLo hd _ _ _)),
    busSteps_wrote hok (applyEvents_toneDivHi hd _ _),
    fun hosc => (if_neg hosc).trans (busSteps_wrote hok (applyEvents_toneAtt hd _ _ _)),
    busSteps_wrote hok (applyEvents_noiseCtl hd _ _ _),
    busSteps_wrote hok (applyEvents_noiseAtt hd _ _)⟩

end Sys2Proof.Machine
end

section
/-! PROOFS. Encoding (30_encoding.md): decoding an encoded instruction (R70 to R87), the classes of bus
bytes (R77, R78), the attenuation writes (R86), and the reserved commands and field values (R83). -/

namespace Sys2Proof.Machine

open Sys2Proof

/-! ## Decoding an encoded instruction (R70 to R87, R111 to R118) -/

theorem Osc.valid_iff {osc : Osc} : osc.valid = true ↔ osc ≠ 3 := bne_iff_ne

theorem decodePin_toneRegister {osc : Osc} (hosc : osc ≠ 3) :
    decodePin .toneRegister (toneDivLoByte osc 0) = .ok (.writeToneRegister osc) := by
  obtain ⟨hmarker, hfield, hkind, -⟩ := fields_toneDivLoByte osc 0
  rw [decodePin, if_pos ⟨hmarker, hkind⟩, hfield, if_neg hosc]

theorem decodePin_frequencyLow (lo : BitVec 4) :
    decodePin .frequencyLow (toneDivLoByte 0 lo) = .ok (.writeFrequencyLow lo) := by
  obtain ⟨hmarker, -, -, hpayload, -⟩ := fields_toneDivLoByte 0 lo
  rw [decodePin, if_pos hmarker, hpayload]

theorem decodePin_frequencyHigh (hi : BitVec 6) :
    decodePin .frequencyHigh (toneDivHiByte hi) = .ok (.writeFrequencyHigh hi) := by
  obtain ⟨hmarker, -, hpayload⟩ := fields_toneDivHiByte hi
  rw [decodePin, if_pos hmarker, hpayload]

theorem decode_encode_writeAttenuation : ∀ level : Att,
    decode (encode (.writeAttenuation level)) = .ok (.writeAttenuation level) := by decide

theorem decode_encode_writeNoiseControl : ∀ (ntype : BitVec 1) (shift : BitVec 2),
    decode (encode (.writeNoiseControl ntype shift)) = .ok (.writeNoiseControl ntype shift) := by decide

/-- Settles O1: a bus word and a pin step are read back field by field; the words of the others hold their
operands as they are, so decoding them computes. -/
theorem encodedInstructionDecodesBack : Obligations.EncodedInstructionDecodesBack := by
  intro i hwf
  cases i with
  | toneDivLo osc lo => exact decodeBus_toneDivLoByte (Osc.valid_iff.1 hwf) lo
  | toneDivHi hi => exact decodeBus_toneDivHiByte hi
  | toneAtt osc level => exact decodeBus_toneAttByte (Osc.valid_iff.1 hwf) level
  | noiseCtl shift ntype => exact decodeBus_noiseCtlByte shift ntype
  | noiseAtt level => exact decodeBus_noiseAttByte level
  | writeToneRegister osc => exact decodePin_toneRegister (Osc.valid_iff.1 hwf)
  | writeFrequencyLow lo => exact decodePin_frequencyLow lo
  | writeFrequencyHigh hi => exact decodePin_frequencyHigh hi
  | writeAttenuation level => exact decode_encode_writeAttenuation level
  | writeNoiseControl ntype shift => exact decode_encode_writeNoiseControl ntype shift
  | _ => rfl

/-! ## A byte is made of its fields (R71 to R78) -/

/-- A one-bit field is 1 where the decoder found it not 0. -/
theorem bit_eq_one {x : BitVec 1} (h : x ≠ 0) : x = 1 := x.eq_zero_or_eq_one.resolve_left h

/-- A one-bit field is 0 where the decoder found it not 1. -/
theorem bit_eq_zero {x : BitVec 1} (h : x ≠ 1) : x = 0 := x.eq_zero_or_eq_one.resolve_right h

/-- Two fields of a byte side by side are one field. -/
theorem field_append_field (b : Byte) {hi lo v w : ℕ} (h : hi = lo + w) :
    field b hi v ++ field b lo w = field b lo (v + w) :=
  BitVec.extractLsb'_append_extractLsb'_eq_extractLsb' h

theorem field_zero_eight (b : Byte) : field b 0 8 = b := BitVec.extractLsb'_eq_self

/-- A data byte: marker, unused bit 6 and payload (R71, R76). -/
theorem dataFields_append (b : Byte) : field b 7 1 ++ field b 6 1 ++ field b 0 6 = b := by
  rw [field_append_field b (rfl : 7 = 6 + 1), field_append_field b (rfl : 6 = 0 + 6)]
  exact field_zero_eight b

/-- A latch byte: marker, oscillator, kind and payload (R71, R72). -/
theorem latchFields_append (b : Byte) :
    field b 7 1 ++ field b 5 2 ++ field b 4 1 ++ field b 0 4 = b := by
  rw [field_append_field b (rfl : 7 = 5 + 2), field_append_field b (rfl : 5 = 4 + 1),
    field_append_field b (rfl : 4 = 0 + 4)]
  exact field_zero_eight b

/-- A noise control byte: a latch byte whose payload is unused bit 3, shift rate and type (R75). -/
theorem noiseFields_append (b : Byte) :
    field b 7 1 ++ field b 5 2 ++ field b 4 1 ++ field b 3 1 ++ field b 1 2 ++ field b 0 1 = b := by
  rw [field_append_field b (rfl : 7 = 5 + 2), field_append_field b (rfl : 5 = 4 + 1),
    field_append_field b (rfl : 4 = 3 + 1), field_append_field b (rfl : 3 = 1 + 2),
    field_append_field b (rfl : 1 = 0 + 1)]
  exact field_zero_eight b

/-- Settles O2: in each branch of the decoder the fields it tested and the operands it read are all the
byte is made of. -/
theorem decodedBusByteEncodesBack : Obligations.DecodedBusByteEncodesBack := by
  intro b i h
  have hdata := dataFields_append b
  have hlatch := latchFields_append b
  have hnoise := noiseFields_append b
  simp only [decode, decodeBus] at h
  split_ifs at h with hmarker hbit6 hosc hkind hbit3 hkind <;> cases h
  · rw [hmarker, hbit6] at hdata
    exact ⟨congrArg RawWord.bus hdata, rfl⟩
  · rw [bit_eq_one hmarker, hosc, hkind] at hlatch
    exact ⟨congrArg RawWord.bus hlatch, rfl⟩
  · rw [bit_eq_one hmarker, hosc, bit_eq_zero hkind, hbit3] at hnoise
    exact ⟨congrArg RawWord.bus hnoise, rfl⟩
  · rw [bit_eq_one hmarker, hkind] at hlatch
    exact ⟨congrArg RawWord.bus hlatch, Osc.valid_iff.2 hosc⟩
  · rw [bit_eq_one hmarker, bit_eq_zero hkind] at hlatch
    exact ⟨congrArg RawWord.bus hlatch, Osc.valid_iff.2 hosc⟩

/-! ## The classes of bus bytes by mask and match (R77, R78) -/

/-- What a mask and match of R77 or R78 says of the fields the decoder tests. -/
theorem fields_of_mask : ∀ b : Byte,
    (b &&& 0x90 = 0x80 → field b 7 1 ≠ 0 ∧ field b 4 1 ≠ 1) ∧
    (b &&& 0x90 = 0x90 → field b 7 1 ≠ 0 ∧ field b 4 1 = 1) ∧
    (b &&& 0xF8 = 0xE0 → field b 7 1 ≠ 0 ∧ field b 5 2 = 3 ∧ field b 4 1 ≠ 1 ∧ field b 3 1 = 0) ∧
    (b &&& 0xF0 = 0xF0 → field b 7 1 ≠ 0 ∧ field b 5 2 = 3 ∧ field b 4 1 = 1) ∧
    (b &&& 0xC0 = 0x00 → field b 7 1 = 0 ∧ field b 6 1 = 0) ∧
    (b &&& 0xC0 = 0x40 → field b 7 1 = 0 ∧ field b 6 1 ≠ 0) ∧
    (b &&& 0xF8 = 0xE8 → field b 7 1 ≠ 0 ∧ field b 5 2 = 3 ∧ field b 4 1 ≠ 1 ∧ field b 3 1 ≠ 0) := by
  decide

/-- Settles O3: each class by the fields its mask fixes (`fields_of_mask`). -/
theorem busByteClasses : Obligations.BusByteClasses := by
  intro b
  obtain ⟨hdivLo, hatt, hnoiseCtl, hnoiseAtt, hdivHi, hbit6, hbit3⟩ := fields_of_mask b
  refine ⟨fun h hosc => ?_, fun h hosc => ?_, fun h => ?_, fun h => ?_, fun h => ?_, fun h => ?_,
    fun h => ?_⟩
  · obtain ⟨hmarker, hkind⟩ := hdivLo h
    rw [decode, decodeBus, if_neg hmarker, if_neg hosc, if_neg hkind]
  · obtain ⟨hmarker, hkind⟩ := hatt h
    rw [decode, decodeBus, if_neg hmarker, if_neg hosc, if_pos hkind]
  · obtain ⟨hmarker, hosc, hkind, hunused⟩ := hnoiseCtl h
    rw [decode, decodeBus, if_neg hmarker, if_pos hosc, if_neg hkind, if_pos hunused]
  · obtain ⟨hmarker, hosc, hkind⟩ := hnoiseAtt h
    rw [decode, decodeBus, if_neg hmarker, if_pos hosc, if_pos hkind]
  · obtain ⟨hmarker, hunused⟩ := hdivHi h
    rw [decode, decodeBus, if_pos hmarker, if_pos hunused]
  · obtain ⟨hmarker, hunused⟩ := hbit6 h
    rw [decode, decodeBus, if_pos hmarker, if_neg hunused]
  · obtain ⟨hmarker, hosc, hkind, hunused⟩ := hbit3 h
    rw [decode, decodeBus, if_neg hmarker, if_pos hosc, if_neg hkind, if_neg hunused]

/-- Settles O4: each word is closed, so decoding it computes. -/
theorem sampleWordsDecode : Obligations.SampleWordsDecode :=
  ⟨rfl, rfl, rfl, rfl, rfl, rfl, rfl, rfl, rfl, rfl⟩

/-! ## Attenuation writes (R86, R122, R123) -/

/-- Completion forgets that the operation was accepted: `busy` and `seq` are written either way. -/
theorem State.complete_wrote_accept (s : State) (place : Place) (bytes : List Byte)
    (es : List PinEvent) : ((s.accept place).wrote bytes es).complete = (s.wrote bytes es).complete :=
  rfl

/-- The one transaction of SET_TONE_ATT and MUTE_TONE in a fault-free run. -/
theorem directToneWrite_toneAtt {s : State} {osc : Osc} (hrunning : s.running = true)
    (hok : s.answersOk) (hd : s.d = 0) (hosc : osc ≠ 3) (level : Att) :
    directToneWrite osc (toneAttEvents s.params osc level) s =
      .next (s.wrote [toneAttByte osc level] (toneAttEvents s.params osc level)).complete := by
  obtain ⟨i, rfl⟩ := oscOf_of_ne_three hosc
  rw [directToneWrite_oscOf_wrote hrunning hok (applyEvents_toneAtt (s := s.accept .direct) hd _ _ _),
    State.complete_wrote_accept]

/-- Settles O11: MUTE_TONE is the attenuation write of level 15 (R86). -/
theorem toneAttenuationWrites : Obligations.ToneAttenuationWrites :=
  fun _ _ level hrunning hok ⟨hd, _⟩ hosc =>
    ⟨directToneWrite_toneAtt hrunning hok hd hosc level,
      directToneWrite_toneAtt hrunning hok hd hosc silence⟩

/-! ## Reserved commands and field values (R83) -/

/-- Op codes 9 to 15 are the reserved ones. -/
theorem isReserved_decodeCmd {r : CmdRecord} (hop : 9 ≤ r.op.toNat) (cfgOk : Bool) (now : Time) :
    isReserved (decodeCmd r cfgOk now) = true := by
  have hlt : r.op.toNat < 16 := r.op.isLt
  interval_cases h : r.op.toNat <;> simp [decodeCmd, h, isReserved]

theorem exec_of_isReserved {i : Instr} (hi : isReserved i = true) (s : State) :
    exec i s = .next s := by
  cases i with
  | reserved9 | reserved10 | reserved11 | reserved12 | reserved13 | reserved14 | reserved15 => rfl
  | _ => cases hi

theorem directToneWrite_three (es : List PinEvent) (s : State) :
    directToneWrite 3 es s = .next s := if_pos rfl

/-- The automatic index takes voice 0 when it is idle (R141). -/
theorem playTarget_three_of_idle {s : State} (hidle : (s.voice 0).playing = false) :
    playTarget s 3 = some 0 := by
  have hv0 : s.voices.v0.playing = false := hidle
  simp [playTarget, hv0]

/-- Settles O15: op codes by `isReserved_decodeCmd`, field 3 by the test every direct tone write begins
with, and PLAY_NOTE by the voice it takes (`playTarget_three_of_idle`). -/
theorem reservedCommandsHaveNoEffect : Obligations.ReservedCommandsHaveNoEffect := by
  refine ⟨fun r cfgOk now hop => ⟨decodeCmd r cfgOk now, rfl, isReserved_decodeCmd hop cfgOk now⟩,
    fun _ s hi => exec_of_isReserved hi s,
    fun s f level =>
      ⟨directToneWrite_three (divisorEvents s.params 3 (quantize s.params.masterClockHz f)) s,
        directToneWrite_three (toneAttEvents s.params 3 level) s,
        directToneWrite_three (toneAttEvents s.params 3 silence) s⟩,
    fun s f duration cfg hrunning hidle => ⟨startNote f duration cfg 3 s, ?_, ?_⟩⟩
  · simp [exec, execPlayNote, hrunning]
  · rw [startNote_target (playTarget_three_of_idle hidle)]
    rfl

/-! ## Internal tone words (R77, R111) -/

theorem toneSteps_three (es : List PinEvent) (s : State) :
    toneSteps 3 es s = .refused .oscillatorOutOfRange := if_pos rfl

/-- Settles O20: the three words are tone steps, which test the field first (`toneSteps_three`). -/
theorem toneStepsRefuseOscillatorThree : Obligations.ToneStepsRefuseOscillatorThree :=
  fun s lo level =>
    ⟨toneSteps_three (toneDivLoEvents s.params 3 lo) s,
      toneSteps_three (toneAttEvents s.params 3 level) s, toneSteps_three (toneRegisterEvents 3) s⟩

end Sys2Proof.Machine
end

section
/-! PROOFS. The Frequency Quantizer (40_quantizer.md): its range (R101), monotonicity (R102), integer
form (R100), corner cases (R103), and the frequency of a divisor (R104). -/

namespace Sys2Proof.Machine

open Sys2Proof

/-! ## The exact divisor of a frequency (R100, R104) -/

/-- `x` of R100 for a frequency in range. The same formula takes a divisor to the frequency it stands for
(R104): it is its own inverse (`exactDivisor_exactDivisor`). -/
def exactDivisor (clock : ℕ+) (f : Freq) : Rat := ((clock : ℕ) : Rat) / (32 * f)

theorem clock_pos (clock : ℕ+) : (0 : Rat) < ((clock : ℕ) : Rat) := Nat.cast_pos.2 clock.pos

theorem exactDivisor_exactDivisor (clock : ℕ+) (x : Rat) :
    exactDivisor clock (exactDivisor clock x) = x := by
  have hclock := (clock_pos clock).ne'
  rcases eq_or_ne x 0 with rfl | hx
  · simp [exactDivisor]
  · unfold exactDivisor; field_simp

theorem exactDivisor_anti (clock : ℕ+) {f g : Freq} (hf : 0 < f) (h : f ≤ g) :
    exactDivisor clock g ≤ exactDivisor clock f :=
  div_le_div_of_nonneg_left (clock_pos clock).le (by positivity) (by linarith)

theorem minFreq_eq_exactDivisor (clock : ℕ+) : minFreq clock = exactDivisor clock 1023 := rfl

theorem maxFreq_eq_exactDivisor (clock : ℕ+) : maxFreq clock = exactDivisor clock 1 := by
  rw [maxFreq, exactDivisor, mul_one]

/-- A frequency in range has its exact divisor between 1 and 1023 (R101). -/
theorem exactDivisor_mem (clock : ℕ+) {f : Freq} (hmin : minFreq clock ≤ f)
    (hmax : f ≤ maxFreq clock) : 1 ≤ exactDivisor clock f ∧ exactDivisor clock f ≤ 1023 := by
  have hpos := minFreq_pos clock
  have hlow := exactDivisor_anti clock (hpos.trans_le hmin) hmax
  have hhigh := exactDivisor_anti clock hpos hmin
  rw [maxFreq_eq_exactDivisor, exactDivisor_exactDivisor] at hlow
  rw [minFreq_eq_exactDivisor, exactDivisor_exactDivisor] at hhigh
  exact ⟨hlow, hhigh⟩

/-! ## The clamp (R100) -/

theorem clampFreq_of_mem (clock : ℕ+) {f : Freq} (hmin : minFreq clock ≤ f)
    (hmax : f ≤ maxFreq clock) : clampFreq clock f = f := by
  rw [clampFreq, if_neg hmin.not_gt, if_neg hmax.not_gt]

theorem clampFreq_of_le_minFreq (clock : ℕ+) {f : Freq} (h : f ≤ minFreq clock) :
    clampFreq clock f = minFreq clock :=
  le_antisymm
    ((clampFreq_mono clock h).trans_eq (clampFreq_of_mem clock le_rfl (minFreq_le_maxFreq clock)))
    (clampFreq_mem clock f).1

theorem clampFreq_of_maxFreq_le (clock : ℕ+) {f : Freq} (h : maxFreq clock ≤ f) :
    clampFreq clock f = maxFreq clock :=
  le_antisymm (clampFreq_mem clock f).2
    ((clampFreq_of_mem clock (minFreq_le_maxFreq clock) le_rfl).symm.trans_le
      (clampFreq_mono clock h))

/-! ## The rounded quotient -/

/-- Rounding keeps a range with natural number ends. -/
theorem floor_add_half_mem {m n : ℕ} {x : Rat} (hm : (m : Rat) ≤ x) (hn : x ≤ n) :
    (m : ℤ) ≤ ⌊x + 1 / 2⌋ ∧ ⌊x + 1 / 2⌋ ≤ n := by
  refine ⟨Int.le_floor.2 ?_, Int.lt_add_one_iff.1 (Int.floor_lt.2 ?_)⟩
  · push_cast; linarith
  · push_cast; linarith

theorem floor_natCast_add_half (n : ℕ) : ⌊(n : Rat) + 1 / 2⌋ = n :=
  have ⟨hlow, hhigh⟩ := floor_add_half_mem (le_refl (n : Rat)) le_rfl
  le_antisymm hhigh hlow

theorem floor_exactDivisor_clampFreq_mem (clock : ℕ+) (f : Freq) :
    1 ≤ ⌊exactDivisor clock (clampFreq clock f) + 1 / 2⌋ ∧
      ⌊exactDivisor clock (clampFreq clock f) + 1 / 2⌋ ≤ 1023 := by
  obtain ⟨hmin, hmax⟩ := clampFreq_mem clock f
  obtain ⟨hlow, hhigh⟩ := exactDivisor_mem clock hmin hmax
  exact floor_add_half_mem (m := 1) (n := 1023) (mod_cast hlow) (mod_cast hhigh)

/-- The mask changes nothing: the rounded quotient fits in ten bits (R101). -/
theorem toNat_quantize (clock : ℕ+) (f : Freq) :
    ((quantize clock f).toNat : ℤ) = ⌊exactDivisor clock (clampFreq clock f) + 1 / 2⌋ := by
  obtain ⟨hlow, hhigh⟩ := floor_exactDivisor_clampFreq_mem clock f
  change ((BitVec.ofNat 10 ⌊exactDivisor clock (clampFreq clock f) + 1 / 2⌋.toNat).toNat : ℤ) = _
  rw [BitVec.toNat_ofNat, Nat.mod_eq_of_lt (by omega), Int.toNat_of_nonneg (by omega)]

theorem toNat_quantize_of_mem (clock : ℕ+) {f : Freq} (hmin : minFreq clock ≤ f)
    (hmax : f ≤ maxFreq clock) :
    ((quantize clock f).toNat : ℤ) = ⌊exactDivisor clock f + 1 / 2⌋ := by
  rw [toNat_quantize, clampFreq_of_mem clock hmin hmax]

/-- The frequency an exact divisor in range stands for is quantized to that divisor, rounded. -/
theorem toNat_quantize_exactDivisor (clock : ℕ+) {x : Rat} (hlow : 1 ≤ x) (hhigh : x ≤ 1023) :
    ((quantize clock (exactDivisor clock x)).toNat : ℤ) = ⌊x + 1 / 2⌋ := by
  have hmin : minFreq clock ≤ exactDivisor clock x := exactDivisor_anti clock (by linarith) hhigh
  have hmax : exactDivisor clock x ≤ maxFreq clock :=
    (exactDivisor_anti clock one_pos hlow).trans_eq (maxFreq_eq_exactDivisor clock).symm
  rw [toNat_quantize_of_mem clock hmin hmax, exactDivisor_exactDivisor]

/-! ## The frequency of a divisor (R104) -/

/-- Settles O9: the exact divisor of the frequency is `n`, which rounding keeps. -/
theorem quantizerInvertsDivisor : Obligations.QuantizerInvertsDivisor := by
  intro clock n hlow hhigh
  have hround := toNat_quantize_exactDivisor clock (x := n) (mod_cast hlow) (mod_cast hhigh)
  rw [floor_natCast_add_half] at hround
  exact Int.ofNat_inj.1 hround

/-! ## Both ends and beyond (R101, R103) -/

theorem quantize_minFreq (clock : ℕ+) : quantize clock (minFreq clock) = 1023 :=
  BitVec.eq_of_toNat_eq (quantizerInvertsDivisor clock 1023 (by decide) le_rfl)

theorem quantize_maxFreq (clock : ℕ+) : quantize clock (maxFreq clock) = 1 := by
  have hone := quantizerInvertsDivisor clock 1 le_rfl (by decide)
  rw [Nat.cast_one, mul_one] at hone
  exact BitVec.eq_of_toNat_eq hone

theorem quantize_congr {clock : ℕ+} {f g : Freq} (h : clampFreq clock f = clampFreq clock g) :
    quantize clock f = quantize clock g := by rw [quantize, h, quantize]

theorem quantize_of_le_minFreq (clock : ℕ+) {f : Freq} (h : f ≤ minFreq clock) :
    quantize clock f = 1023 := by
  rw [← quantize_minFreq clock]
  exact quantize_congr
    ((clampFreq_of_le_minFreq clock h).trans (clampFreq_of_le_minFreq clock le_rfl).symm)

theorem quantize_of_maxFreq_le (clock : ℕ+) {f : Freq} (h : maxFreq clock ≤ f) :
    quantize clock f = 1 := by
  rw [← quantize_maxFreq clock]
  exact quantize_congr
    ((clampFreq_of_maxFreq_le clock h).trans (clampFreq_of_maxFreq_le clock le_rfl).symm)

/-! ## Range and monotonicity (R101, R102) -/

/-- Settles O5: the exact divisor of a clamped frequency is in range, and rounding keeps the range. -/
theorem quantizerStaysInRange : Obligations.QuantizerStaysInRange := by
  intro clock f
  have hround := toNat_quantize clock f
  obtain ⟨hlow, hhigh⟩ := floor_exactDivisor_clampFreq_mem clock f
  exact ⟨by omega, by omega, hround, quantize_minFreq clock, quantize_maxFreq clock,
    quantize_of_le_minFreq clock, quantize_of_maxFreq_le clock⟩

/-- Settles O6: the clamp is monotone, the exact divisor antitone, and the floor monotone. -/
theorem quantizerIsMonotone : Obligations.QuantizerIsMonotone := by
  intro clock f g hfg
  have hpos : 0 < clampFreq clock f := (minFreq_pos clock).trans_le (clampFreq_mem clock f).1
  have hdivisor := exactDivisor_anti clock hpos (clampFreq_mono clock hfg)
  rw [← Nat.cast_le (α := ℤ), toNat_quantize, toNat_quantize]
  exact Int.floor_mono (add_le_add_left hdivisor _)

/-! ## Integer form (R100) -/

/-- What R100 rounds down for a fraction, over one denominator. -/
theorem exactDivisor_div_add_half (clock : ℕ+) {a b : ℕ} (ha : 0 < a) (hb : 0 < b) :
    exactDivisor clock ((a : Rat) / (b : Rat)) + 1 / 2 =
      ((2 * (clock : ℕ) * b + 32 * a : ℕ) : Rat) / ((64 * a : ℕ) : Rat) := by
  have ha' : (a : Rat) ≠ 0 := Nat.cast_ne_zero.2 ha.ne'
  have hb' : (b : Rat) ≠ 0 := Nat.cast_ne_zero.2 hb.ne'
  unfold exactDivisor
  push_cast
  field_simp
  ring

/-- Settles O7: the floor of a fraction of naturals is their division. -/
theorem quantizerInIntegers : Obligations.QuantizerInIntegers := by
  intro clock a b ha hb hmin hmax
  have hround := toNat_quantize_of_mem clock hmin hmax
  rw [exactDivisor_div_add_half clock ha hb, Rat.floor_natCast_div_natCast] at hround
  exact_mod_cast hround

/-! ## Corner cases (R103) -/

/-- Settles O8: `f ≤ 0` is below the range, and a tie has the exact divisor `k + 1/2`. -/
theorem quantizerCorners : Obligations.QuantizerCorners := by
  refine fun clock => ⟨fun f hf => quantize_of_le_minFreq clock (hf.trans (minFreq_pos clock).le),
    fun k hlow hhigh => ?_⟩
  have hlow' : (1 : Rat) ≤ k := mod_cast hlow
  have hhigh' : (k : Rat) ≤ 1022 := mod_cast hhigh
  have hfreq : ((clock : ℕ) : Rat) / (16 * (2 * (k : Rat) + 1)) =
      exactDivisor clock ((k : Rat) + 1 / 2) := by
    rw [exactDivisor]; ring_nf
  have hround := toNat_quantize_exactDivisor clock (x := (k : Rat) + 1 / 2) (by linarith)
    (by linarith)
  have hup : ⌊(k : Rat) + 1 / 2 + 1 / 2⌋ = ((k + 1 : ℕ) : ℤ) := by
    rw [add_assoc, add_halves]
    exact_mod_cast Int.floor_natCast (k + 1)
  rw [hfreq]
  exact Int.ofNat_inj.1 (hround.trans hup)

end Sys2Proof.Machine
end

section
/-! PROOFS. The Register Write Protocol (41_register_write_protocol.md): the latch pulse (R116) and its
width (R127), and the direct writes of the divisor and the noise registers (R120 to R126). -/

namespace Sys2Proof.Machine

open Sys2Proof

/-! ## latch (R116) -/

/-- Driving all eight pins leaves nothing of the byte before. -/
theorem driveField_all_zero (d : Byte) : driveField d 7 0 0#8 = 0#8 := by simp [driveField, pinMask]

/-- A pulse of the byte on the pins, from any levels: the first event puts `WE_n` low, so the third is a
rising edge. -/
theorem applyEvents_latch (p : Config.Params) (s : State) :
    applyEvents (latchEvents p) s = s.wrote [s.d] (latchEvents p) := by
  have hasked : askedOf (latchEvents p) = 3 := rfl
  rw [State.wrote, hasked]
  simp [latchEvents, applyEvent, PinEvent.answersLeft, PinEvent.asks, driveField_all_zero,
    ← List.drop_one]

/-- Settles O19: in a fault-free run the four events of `latch` all happen (`applyEvents_latch`). -/
theorem latchPulsesTheByte : Obligations.LatchPulsesTheByte :=
  fun s hok => busSteps_wrote hok (applyEvents_latch s.params s)

/-! ## The pulse in block clocks (R127, D10) -/

theorem one_le_pulseClocks (p : Config.Params) (clk : ℕ+) : 1 ≤ pulseClocks p clk := le_max_left _ _

/-- Rounding up loses nothing of the pulse. -/
theorem writeTime_mul_le_pulseClocks (p : Config.Params) (clk : ℕ+) :
    writeTime p * ((clk : ℕ) : Rat) ≤ (pulseClocks p clk : Rat) := by
  set cycles : Rat := writeTime p * ((clk : ℕ) : Rat)
  have hround : cycles.ceil ≤ (pulseClocks p clk : ℤ) :=
    Int.toNat_le.1 (le_max_right 1 cycles.ceil.toNat)
  exact Rat.le_ceil.trans (mod_cast hround)

/-- Settles O21: both bounds, with the clock brought to the other side. -/
theorem pulseClocksCoverWriteTime : Obligations.PulseClocksCoverWriteTime :=
  fun p clk => ⟨(le_div_iff₀ (clock_pos clk)).2 (writeTime_mul_le_pulseClocks p clk),
    one_le_pulseClocks p clk⟩

/-! ## The direct writes (R120 to R126, R128) -/

/-- Settles O10: the events of SET_TONE write the two divisor bytes (`applyEvents_divisor`). -/
theorem setToneWritesDivisor : Obligations.SetToneWritesDivisor := by
  intro s osc f hrunning hok ⟨hd, _⟩ hosc
  obtain ⟨i, rfl⟩ := oscOf_of_ne_three hosc
  rw [← State.complete_wrote_accept s .direct]
  exact directToneWrite_oscOf_wrote hrunning hok
    (applyEvents_divisor (s := s.accept .direct) hd s.params (oscOf i) _)

/-- A direct write whose events write `bytes`, accepted and completed. -/
theorem directWrite_wrote {s : State} {es : List PinEvent} {bytes : List Byte}
    (hrunning : s.running = true) (hok : s.answersOk)
    (hwrote : applyEvents es (s.accept .direct) = (s.accept .direct).wrote bytes es) :
    directWrite es s = .next (s.wrote bytes es).complete := by
  rw [directWrite, if_pos hrunning, runDirect, drivePins_answersOk (answersOk_accept hok _), hwrote,
    Progress.finish_going, State.complete_wrote_accept]

/-- The attenuation byte of MUTE_NOISE (R126). -/
theorem noiseAttByte_silence : noiseAttByte silence = 0xFF := by decide

/-- Settles O12: each write is one BusWrite of its byte (`directWrite_wrote`); MUTE_NOISE is the
attenuation write of level 15 (R86), whose byte is `0xFF`. -/
theorem noiseWrites : Obligations.NoiseWrites := by
  intro s ntype shift level hrunning hok ⟨hd, _⟩
  have hatt (a : Att) : directWrite (noiseAttEvents s.params a) s =
      .next (s.wrote [noiseAttByte a] (noiseAttEvents s.params a)).complete :=
    directWrite_wrote hrunning hok (applyEvents_noiseAtt (s := s.accept .direct) hd s.params a)
  exact ⟨directWrite_wrote hrunning hok
    (applyEvents_noiseCtl (s := s.accept .direct) hd s.params ntype shift), hatt level,
    noiseAttByte_silence ▸ hatt silence⟩

end Sys2Proof.Machine
end

section
/-! PROOFS. Voice allocation (42_voice_allocation.md): the target of PLAY_NOTE (R141), the duration
split (R142), the voice it starts (R143), and notes one after another (R146). -/

namespace Sys2Proof.Machine

open Sys2Proof

/-! ## Target selection (R141) -/

theorem playTarget_oscOf (s : State) (i : Slot) : playTarget s (oscOf i) = some i := by
  rw [playTarget, slotOf_oscOf]

/-- The automatic index asks the voices in order of index. -/
theorem playTarget_three (s : State) :
    playTarget s 3 =
      if !(s.voice 0).playing then some 0
      else if !(s.voice 1).playing then some 1
      else if !(s.voice 2).playing then some 2
      else none := rfl

theorem playTarget_three_of_first_idle {s : State} {i : Slot} (hidle : (s.voice i).playing = false)
    (hbefore : ∀ j, j < i → (s.voice j).playing = true) : playTarget s 3 = some i := by
  rw [playTarget_three]
  match i, hidle, hbefore with
  | 0, hidle, _ => simp [hidle]
  | 1, hidle, hbefore => simp [hidle, hbefore 0 (by decide)]
  | 2, hidle, hbefore => simp [hidle, hbefore 0 (by decide), hbefore 1 (by decide)]

theorem playTarget_three_of_all_playing {s : State} (hfull : ∀ i, (s.voice i).playing = true) :
    playTarget s 3 = none := by
  rw [playTarget_three]
  simp [hfull]

/-! ## What PLAY_NOTE leaves (R143, R144) -/

/-- The voice of a note that has just started. -/
def startedVoice (f : Freq) (duration : Time) (cfg : VoiceConfig) : Voice :=
  { config := cfg, phase := splitDuration duration cfg.envelope
    baseFrequency := f, elapsedTime := 0, playing := true }

theorem exec_playNote_target {s : State} (hrunning : s.running = true) {f : Freq} {duration : Time}
    {cfg : VoiceConfig} {x : Osc} {i : Slot} (htarget : playTarget s x = some i) :
    exec (.playNote f duration cfg x) s =
      .next (s.setVoice i (startedVoice f duration cfg)).complete := by
  rw [exec, execPlayNote, if_pos hrunning, startNote_target htarget, startedVoice]

theorem exec_playNote_dropped {s : State} (hrunning : s.running = true) {f : Freq} {duration : Time}
    {cfg : VoiceConfig} {x : Osc} (htarget : playTarget s x = none) :
    exec (.playNote f duration cfg x) s = .next s.complete := by
  rw [exec, execPlayNote, if_pos hrunning, startNote_dropped htarget]

/-- Settles O31: the three forms differ in their target only. -/
theorem playNoteTakesItsVoice : Obligations.PlayNoteTakesItsVoice :=
  fun s _ _ _ hrunning =>
    ⟨fun i => exec_playNote_target hrunning (playTarget_oscOf s i),
      fun _ hidle hbefore =>
        exec_playNote_target hrunning (playTarget_three_of_first_idle hidle hbefore),
      fun hfull => exec_playNote_dropped hrunning (playTarget_three_of_all_playing hfull)⟩

/-! ## The duration split (R142) -/

/-- Settles O32: what attack and then decay leave is what a counter keeps of a time
(`toNat_counterAfter`), and sustain is what both leave. -/
theorem durationSplitsInOrder : Obligations.DurationSplitsInOrder := by
  intro duration env p
  have hattack : p.attackLeft.toNat = min env.attack.toNat duration.toNat := toNat_minTime _ _
  have hleft : (duration - p.attackLeft).toNat = duration.toNat - env.attack.toNat :=
    toNat_counterAfter env.attack duration
  have hdecay : p.decayLeft.toNat = min env.decay.toNat (duration - p.attackLeft).toNat :=
    toNat_minTime _ _
  have hsustain : p.sustainLeft.toNat = (duration - p.attackLeft).toNat - env.decay.toNat :=
    toNat_counterAfter env.decay (duration - p.attackLeft)
  refine ⟨hattack, by omega, by omega, rfl, ?_⟩
  rw [PhaseCounters.preRelease]
  omega

/-! ## Notes one after another (R146) -/

/-- The playing voices are those below `k`. -/
def State.PlayingBelow (s : State) (k : ℕ) : Prop :=
  ∀ j : Slot, (s.voice j).playing = decide (j.val < k)

theorem State.PlayingBelow.playTarget_three {s : State} {i : Slot} (h : s.PlayingBelow i) :
    playTarget s 3 = some i :=
  playTarget_three_of_first_idle ((h i).trans (decide_eq_false (lt_irrefl _)))
    fun j hj => (h j).trans (decide_eq_true hj)

/-- A note on the first idle voice makes it one more. -/
theorem State.PlayingBelow.setVoice {s : State} {i : Slot} (h : s.PlayingBelow i) {v : Voice}
    (hv : v.playing = true) : (s.setVoice i v).complete.PlayingBelow (i + 1) := by
  intro j
  change ((s.setVoice i v).voice j).playing = _
  rcases eq_or_ne j i with rfl | hne
  · rw [State.voice_setVoice_same, hv, decide_eq_true (Nat.lt_succ_self _)]
  · have hval : j.val ≠ i.val := Fin.val_ne_of_ne hne
    rw [State.voice_setVoice_ne s v hne, h j, decide_eq_decide]
    omega

/-- Settles O33: each of the first three notes finds one more voice playing
(`State.PlayingBelow.setVoice`); the fourth is dropped and completes a state that is complete. -/
theorem threeNotesFillThreeVoices : Obligations.ThreeNotesFillThreeVoices := by
  intro s f duration cfg hrunning hidle
  let v := startedVoice f duration cfg
  let t1 := (s.setVoice 0 v).complete
  let t2 := (t1.setVoice 1 v).complete
  let t3 := (t2.setVoice 2 v).complete
  have h0 : s.PlayingBelow (0 : Slot) := hidle
  have h1 : t1.PlayingBelow (1 : Slot) := h0.setVoice rfl
  have h2 : t2.PlayingBelow (2 : Slot) := h1.setVoice rfl
  have hfull : ∀ i, (t3.voice i).playing = true := fun i =>
    (h2.setVoice rfl i).trans (decide_eq_true i.isLt)
  exact ⟨t1, t2, t3, exec_playNote_target hrunning h0.playTarget_three,
    exec_playNote_target (s := t1) hrunning h1.playTarget_three,
    exec_playNote_target (s := t2) hrunning h2.playTarget_three,
    exec_playNote_dropped (s := t3) hrunning (playTarget_three_of_all_playing hfull),
    rfl, rfl, rfl, rfl, rfl, rfl, rfl, rfl, rfl, rfl⟩

end Sys2Proof.Machine
end

section
/-! PROOFS. The Envelope Engine (43_envelope.md): consumption (R152), the level of each phase (R153 to
R159) and its order in time (R160), and when a voice goes idle (R150, R156, R157). -/

namespace Sys2Proof.Machine

open Sys2Proof

/-! ## Consumption (R152) -/

theorem toNat_consume_attackLeft (dt : Time) (p : PhaseCounters) :
    (consume dt p).attackLeft.toNat = p.attackLeft.toNat - dt.toNat := toNat_counterAfter _ _

theorem toNat_consume_decayLeft (dt : Time) (p : PhaseCounters) :
    (consume dt p).decayLeft.toNat = p.decayLeft.toNat - (dt.toNat - p.attackLeft.toNat) := by
  simp only [consume, toNat_counterAfter, toNat_carryAfter]

theorem toNat_consume_sustainLeft (dt : Time) (p : PhaseCounters) :
    (consume dt p).sustainLeft.toNat =
      p.sustainLeft.toNat - (dt.toNat - p.attackLeft.toNat - p.decayLeft.toNat) := by
  simp only [consume, toNat_counterAfter, toNat_carryAfter]

theorem toNat_consume_releaseLeft (dt : Time) (p : PhaseCounters) :
    (consume dt p).releaseLeft.toNat = p.releaseLeft.toNat - (dt.toNat - p.preRelease) := by
  simp only [consume, toNat_counterAfter, toNat_carryAfter, PhaseCounters.preRelease, Nat.sub_sub,
    Nat.add_assoc]

/-- Settles O34: each counter is what the carry into it leaves, and the two sums are linear in them. -/
theorem consumptionCarriesOver : Obligations.ConsumptionCarriesOver := by
  intro dt p q
  have hattack : q.attackLeft.toNat = _ := toNat_consume_attackLeft dt p
  have hdecay : q.decayLeft.toNat = _ := toNat_consume_decayLeft dt p
  have hsustain : q.sustainLeft.toNat = _ := toNat_consume_sustainLeft dt p
  have hrelease : q.releaseLeft.toNat = _ := toNat_consume_releaseLeft dt p
  refine ⟨hattack, hdecay, hsustain, hrelease, ?_, fun duration elapsed hleft => ?_⟩
  · simp only [PhaseCounters.total, PhaseCounters.preRelease] at hrelease ⊢
    omega
  · simp only [PhaseCounters.preRelease] at hleft ⊢
    omega

/-! ## Phase lengths (R153, R154, R156) -/

/-- The counters are within the phase lengths: what `Voice.countersOk` asks of a playing voice. -/
def PhaseCounters.Within (p : PhaseCounters) (env : EnvelopeConfig) : Prop :=
  p.attackLeft.toNat ≤ env.attack.toNat ∧ p.decayLeft.toNat ≤ env.decay.toNat ∧
    p.releaseLeft.toNat ≤ env.release.toNat

theorem Voice.countersOk_iff {v : Voice} :
    v.countersOk ↔ (v.playing = true → v.phase.Within v.config.envelope) := Iff.rfl

/-- Counters only fall. -/
theorem PhaseCounters.Within.consume {p : PhaseCounters} {env : EnvelopeConfig} (h : p.Within env)
    (dt : Time) : (Machine.consume dt p).Within env := by
  obtain ⟨hattack, hdecay, hrelease⟩ := h
  refine ⟨?_, ?_, ?_⟩
  · rw [toNat_consume_attackLeft]; omega
  · rw [toNat_consume_decayLeft]; omega
  · rw [toNat_consume_releaseLeft]; omega

/-! ## Phase selection (R151) -/

theorem selectPhase_eq_sustain {p : PhaseCounters} (hattack : p.attackLeft = 0)
    (hdecay : p.decayLeft = 0) (hsustain : 0 < p.sustainLeft.toNat) : selectPhase p = .sustain := by
  rw [selectPhase, if_neg (not_not_intro hattack), if_neg (not_not_intro hdecay),
    if_pos (Time.ne_zero_iff.2 hsustain)]

/-- Nothing is selected exactly when no time is left. -/
theorem selectPhase_eq_none_iff (p : PhaseCounters) : selectPhase p = .none ↔ p.total = 0 := by
  unfold selectPhase PhaseCounters.total
  simp only [Time.ne_zero_iff]
  split_ifs <;> simp <;> omega

/-! ## The level of each phase (R153 to R157, R159) -/

/-- A part of a phase length takes at most the whole of `k`. -/
theorem mul_div_le_of_le {k x n : ℕ} (h : x ≤ n) : k * x / n ≤ k :=
  Nat.div_le_of_le_mul ((Nat.mul_le_mul_left k h).trans_eq (Nat.mul_comm k n))

/-- The whole of `k` is reached only at the end of the phase length. -/
theorem mul_sub_div_eq_iff {k x n : ℕ} (hn : 0 < n) (hx : x ≤ n) :
    k * (n - x) / n = k ↔ x = 0 ∨ k = 0 := by
  refine ⟨fun h => ?_, ?_⟩
  · by_contra hne
    obtain ⟨hx0, hk0⟩ := not_or.1 hne
    have hlt : k * (n - x) < k * n := Nat.mul_lt_mul_of_pos_left (by omega) (by omega)
    exact (Nat.div_lt_of_lt_mul (hlt.trans_eq (Nat.mul_comm k n))).ne h
  · rintro (rfl | rfl)
    · rw [Nat.sub_zero, Nat.mul_div_cancel _ hn]
    · simp

theorem toNat_att_le (a : Att) : a.toNat ≤ 15 := Nat.le_of_lt_succ a.isLt

/-- The level of the selected phase, where it is up to 15 and so fits its four bits (R159). -/
theorem toNat_envelopeLevel {dt : Time} {v : Voice} {sel : Sel} {n : ℕ}
    (hsel : selectPhase v.phase = sel)
    (hlevel : attenuationNat sel v.config.envelope (consume dt v.phase) = n) (hfits : n ≤ 15) :
    (envelopeLevel dt v).toNat = n := by
  rw [envelopeLevel, attenuationOf, BitVec.toNat_ofNat, hsel, hlevel, Nat.mod_eq_of_lt (by omega)]

theorem envelopeLevel_attack {v : Voice} (hwithin : v.phase.Within v.config.envelope)
    (hsel : selectPhase v.phase = .attack) (dt : Time) :
    0 < v.config.envelope.attack.toNat ∧
    (envelopeLevel dt v).toNat =
      15 * (consume dt v.phase).attackLeft.toNat / v.config.envelope.attack.toNat := by
  obtain ⟨hlength', -, -⟩ := hwithin.consume dt
  obtain ⟨hlength, -, -⟩ := hwithin
  have hpos : 0 < v.config.envelope.attack.toNat :=
    ((selectPhase_iff v.phase).1.1 hsel).trans_le hlength
  exact ⟨hpos, toNat_envelopeLevel hsel (floorDiv_pos hpos) (mul_div_le_of_le hlength')⟩

theorem envelopeLevel_decay {v : Voice} (hwithin : v.phase.Within v.config.envelope)
    (hsel : selectPhase v.phase = .decay) (dt : Time) :
    0 < v.config.envelope.decay.toNat ∧
    (envelopeLevel dt v).toNat = v.config.envelope.sustain.toNat *
      (v.config.envelope.decay.toNat - (consume dt v.phase).decayLeft.toNat) /
        v.config.envelope.decay.toNat := by
  obtain ⟨-, hlength, -⟩ := hwithin
  obtain ⟨-, hleft⟩ := (selectPhase_iff v.phase).2.1.1 hsel
  have hpos : 0 < v.config.envelope.decay.toNat := hleft.trans_le hlength
  exact ⟨hpos, toNat_envelopeLevel hsel (floorDiv_pos hpos)
    ((mul_div_le_of_le (Nat.sub_le _ _)).trans (toNat_att_le _))⟩

theorem envelopeLevel_sustain {v : Voice} (hsel : selectPhase v.phase = .sustain) (dt : Time) :
    envelopeLevel dt v = v.config.envelope.sustain :=
  BitVec.eq_of_toNat_eq (toNat_envelopeLevel hsel rfl (toNat_att_le _))

theorem envelopeLevel_release {v : Voice} (hwithin : v.phase.Within v.config.envelope)
    (hsel : selectPhase v.phase = .release) (dt : Time) :
    0 < v.config.envelope.release.toNat ∧
    (envelopeLevel dt v).toNat = v.config.envelope.sustain.toNat +
      (15 - v.config.envelope.sustain.toNat) *
        (v.config.envelope.release.toNat - (consume dt v.phase).releaseLeft.toNat) /
          v.config.envelope.release.toNat := by
  obtain ⟨-, -, hlength⟩ := hwithin
  obtain ⟨-, -, -, hleft⟩ := (selectPhase_iff v.phase).2.2.1 hsel
  have hpos : 0 < v.config.envelope.release.toNat := hleft.trans_le hlength
  have hrise := mul_div_le_of_le (k := 15 - v.config.envelope.sustain.toNat)
    (Nat.sub_le v.config.envelope.release.toNat (consume dt v.phase).releaseLeft.toNat)
  have hsustain := toNat_att_le v.config.envelope.sustain
  exact ⟨hpos, toNat_envelopeLevel hsel (congrArg _ (floorDiv_pos hpos)) (by omega)⟩

theorem envelopeLevel_none {v : Voice} (hsel : selectPhase v.phase = .none) (dt : Time) :
    envelopeLevel dt v = 15 :=
  BitVec.eq_of_toNat_eq (toNat_envelopeLevel hsel rfl le_rfl)

/-- Settles O35: the counters tell the selected phase, and each phase has its level lemma. -/
theorem envelopeLevels : Obligations.EnvelopeLevels := by
  intro dt v hplaying hcounters q env
  have hwithin := hcounters hplaying
  obtain ⟨hattack, hdecay, hrelease⟩ := selectPhase_iff v.phase
  exact ⟨fun hleft => envelopeLevel_attack hwithin (hattack.2 hleft) dt,
    fun ha hleft => envelopeLevel_decay hwithin (hdecay.2 ⟨ha, hleft⟩) dt,
    fun ha hd hleft => envelopeLevel_sustain (selectPhase_eq_sustain ha hd hleft) dt,
    fun ha hd hs hleft => envelopeLevel_release hwithin (hrelease.2 ⟨ha, hd, hs, hleft⟩) dt,
    fun htotal => envelopeLevel_none ((selectPhase_eq_none_iff v.phase).2 htotal) dt⟩

/-! ## Levels in one phase, one after another (R160) -/

/-- Settles O36: within one phase both levels have the same formula, in counters that only fall. -/
theorem envelopeIsMonotone : Obligations.EnvelopeIsMonotone := by
  intro dt dt' v hplaying hcounters w hsame
  have hwithin : v.phase.Within v.config.envelope := hcounters hplaying
  have hwithin' : w.phase.Within w.config.envelope := hwithin.consume dt
  refine ⟨fun hsel => ?_, fun hsel => ?_, fun hsel => ?_⟩
  · rw [(envelopeLevel_attack hwithin hsel dt).2,
      (envelopeLevel_attack hwithin' (hsame.trans hsel) dt').2, toNat_consume_attackLeft dt' w.phase]
    exact Nat.div_le_div_right (Nat.mul_le_mul_left _ (Nat.sub_le _ _))
  · rw [(envelopeLevel_decay hwithin hsel dt).2,
      (envelopeLevel_decay hwithin' (hsame.trans hsel) dt').2, toNat_consume_decayLeft dt' w.phase]
    exact Nat.div_le_div_right (Nat.mul_le_mul_left _ (Nat.sub_le_sub_left (Nat.sub_le _ _) _))
  · rw [(envelopeLevel_release hwithin hsel dt).2,
      (envelopeLevel_release hwithin' (hsame.trans hsel) dt').2, toNat_consume_releaseLeft dt' w.phase]
    exact Nat.add_le_add_left (Nat.div_le_div_right
      (Nat.mul_le_mul_left _ (Nat.sub_le_sub_left (Nat.sub_le _ _) _))) _

/-! ## Going idle (R150, R156, R157) -/

theorem playingAfter_eq_false_iff (sel : Sel) (att : Att) :
    playingAfter sel att true = false ↔ (sel = .release ∧ att = 15) ∨ sel = .none := by
  cases sel with
  | attack | decay | sustain | none => simp [playingAfter]
  | release =>
    rw [playingAfter]
    split
    · next h => exact iff_of_true rfl (.inl ⟨rfl, h⟩)
    · next h => simpa [silence] using h

/-- The release level is silent exactly at the phase's end or from a silent sustain level (R156). -/
theorem envelopeLevel_release_eq_silence_iff {v : Voice}
    (hwithin : v.phase.Within v.config.envelope) (hsel : selectPhase v.phase = .release) (dt : Time) :
    envelopeLevel dt v = 15 ↔
      (consume dt v.phase).releaseLeft = 0 ∨ v.config.envelope.sustain = 15 := by
  obtain ⟨hpos, hlevel⟩ := envelopeLevel_release hwithin hsel dt
  obtain ⟨-, -, hle⟩ := hwithin.consume dt
  have hfull := mul_sub_div_eq_iff (k := 15 - v.config.envelope.sustain.toNat) hpos hle
  have hsustain := toNat_att_le v.config.envelope.sustain
  rw [← BitVec.toNat_inj, ← BitVec.toNat_inj, ← BitVec.toNat_inj, hlevel]
  change _ = 15 ↔ _ = 0 ∨ _ = 15
  omega

/-- Settles O37: `playing` by the branches of `playingAfter`, the silent release level by its formula. -/
theorem voiceGoesIdleExactly : Obligations.VoiceGoesIdleExactly := by
  intro dt v hplaying hcounters
  refine ⟨?_, fun hsel => envelopeLevel_release_eq_silence_iff (hcounters hplaying) hsel dt,
    rfl, rfl, rfl⟩
  simp only [envelopeVoice, hplaying]
  exact playingAfter_eq_false_iff _ _

end Sys2Proof.Machine
end

section
/-! PROOFS. The voices' bounds (R153, R154, R156, R203): each operation on a voice keeps them, so every
step does. -/

namespace Sys2Proof.Machine

open Sys2Proof

/-! ## One voice -/

/-- A note that has just started has its counters within the phase lengths and no time behind it. -/
theorem startedVoice_bounds (f : Freq) (duration : Time) (cfg : VoiceConfig) :
    (startedVoice f duration cfg).countersOk ∧ (startedVoice f duration cfg).elapsedOk := by
  obtain ⟨hattack, hdecay, -, hrelease, hpre⟩ := durationSplitsInOrder duration cfg.envelope
  refine ⟨fun _ => ⟨?_, ?_, ?_⟩, fun _ => ?_⟩
  · exact hattack.trans_le (min_le_left _ _)
  · exact hdecay.trans_le (min_le_left _ _)
  · exact (congrArg BitVec.toNat hrelease).le
  · have htotal : (startedVoice f duration cfg).phase.total =
        duration.toNat + cfg.envelope.release.toNat :=
      congrArg₂ _ hpre (congrArg BitVec.toNat hrelease)
    have helapsed : (startedVoice f duration cfg).elapsedTime.toNat = 0 := rfl
    omega

/-- Aging does not wrap: a playing voice is more than one tick away from its width's end (R203). -/
theorem toNat_agedVoice_elapsedTime {v : Voice} (hplaying : v.playing = true) (h : v.elapsedOk)
    (dt : Time) : (agedVoice dt v).elapsedTime.toNat = v.elapsedTime.toNat + dt.toNat := by
  obtain ⟨-, hmax⟩ := h hplaying
  change (v.elapsedTime + dt.setWidth 34).toNat = _
  rw [BitVec.toNat_add, BitVec.toNat_setWidth]
  omega

theorem agedVoice_countersOk {v : Voice} (h : v.countersOk) (dt : Time) :
    (agedVoice dt v).countersOk := h

/-- An envelope step only lowers counters. -/
theorem envelopeVoice_countersOk {v : Voice} (h : v.countersOk) (dt : Time) :
    (envelopeVoice dt v).countersOk := fun hplaying =>
  (Voice.countersOk_iff.1 h (playing_of_playingAfter hplaying)).consume dt

/-- A voice with no time left goes idle in its envelope step (R157). -/
theorem total_pos_of_envelopeVoice_playing {dt : Time} {v : Voice}
    (h : (envelopeVoice dt v).playing = true) : 0 < v.phase.total := by
  by_contra hzero
  have hsel : selectPhase v.phase = .none := (selectPhase_eq_none_iff _).2 (by omega)
  simp [envelopeVoice, hsel, playingAfter] at h

/-- What a processed voice gains in elapsed time its counters lose, until they are empty; the tick that
empties them adds at most one full time, and the next one finds the voice idle (R203). -/
theorem processedVoice_elapsedOk {v : Voice} (hv : v.playing = true) (h : v.elapsedOk) (dt : Time) :
    (envelopeVoice dt (agedVoice dt v)).elapsedOk := by
  intro hplaying
  have hleft : 0 < v.phase.total := total_pos_of_envelopeVoice_playing hplaying
  have helapsed : (envelopeVoice dt (agedVoice dt v)).elapsedTime.toNat =
      v.elapsedTime.toNat + dt.toNat := toNat_agedVoice_elapsedTime hv h dt
  obtain ⟨-, -, -, -, hconsumed, -⟩ := consumptionCarriesOver dt v.phase
  have htotal : (envelopeVoice dt (agedVoice dt v)).phase.total =
      v.phase.total - min dt.toNat v.phase.total := hconsumed
  obtain ⟨hbound, -⟩ := h hv
  omega

/-! ## Every operation -/

/-- The voices' bounds survive where no voice changes and no fault is left. -/
theorem State.voicesOk.of_voices_eq {s t : State} (hs : s.voicesOk) (hvoices : t.voices = s.voices)
    (hfault : t.fault = false → s.fault = false) : t.voicesOk := by
  intro i
  obtain ⟨hcounters, helapsed⟩ := hs i
  rw [State.voice, hvoices]
  exact ⟨hcounters, fun h => helapsed (hfault h)⟩

theorem voicesOk_of_voices_zero {s : State} (h : s.voices = Voices.zero) : s.voicesOk :=
  reset_voicesOk.of_voices_eq h fun _ => rfl

theorem State.voicesOk.setVoice {s : State} (hs : s.voicesOk) (i : Slot) {v : Voice}
    (hv : v.countersOk ∧ v.elapsedOk) : (s.setVoice i v).voicesOk := by
  intro j
  obtain rfl | hne := eq_or_ne j i
  · rw [State.voice_setVoice_same]
    exact ⟨hv.1, fun _ => hv.2⟩
  · rw [State.voice_setVoice_ne s v hne]
    exact hs j

/-- No operation leaves the fault state (R215). -/
theorem busKept_fault : BusKept fun s => s.fault = true where
  same := by
    rintro s t ⟨-, hfault, -⟩ hs
    exact hfault.trans hs
  drive := by
    intro s es hno _ hs
    rw [hno] at hs
    cases hs
  config := fun _ _ => rfl

theorem exec_operation_fault_eq_false {i : Instr} {s t : State} (hi : isOperation i = true)
    (h : exec i s = .next t) (ht : t.fault = false) : s.fault = false := by
  by_contra hs
  rw [exec_operation_keeps busKept_fault hi (by simpa using hs) h] at ht
  cases ht

theorem execPlayNote_voicesOk {f : Freq} {duration : Time} {cfg : VoiceConfig} {index : Osc}
    {s t : State} (hs : s.voicesOk) (h : exec (.playNote f duration cfg index) s = .next t) :
    t.voicesOk := by
  cases hrunning : s.running with
  | false =>
    simp only [exec, execPlayNote, hrunning] at h
    cases h
    exact hs
  | true =>
    cases htarget : playTarget s index with
    | some slot =>
      rw [exec_playNote_target hrunning htarget] at h
      cases h
      exact hs.setVoice slot (startedVoice_bounds f duration cfg)
    | none =>
      rw [exec_playNote_dropped hrunning htarget] at h
      cases h
      exact hs

/-- The loop leaves a voice as it was, aged and stepped, or, where a pin failure ended the tick, aged
only. -/
theorem voiceLoop_voicesOk (dt : Time) {is : List Slot} (hnodup : is.Nodup) {s : State}
    (hfault : s.fault = false) (hs : s.voicesOk) : (voiceLoop dt is s).state.voicesOk := by
  intro j
  obtain ⟨hcounters, helapsed⟩ := hs j
  obtain hv | ⟨hplaying, hv | ⟨hv, habort⟩⟩ := voiceLoop_voice dt hnodup s j <;> rw [hv]
  · exact ⟨hcounters, fun _ => helapsed hfault⟩
  · exact ⟨envelopeVoice_countersOk (agedVoice_countersOk hcounters dt) dt,
      fun _ => processedVoice_elapsedOk hplaying (helapsed hfault) dt⟩
  · obtain ⟨hfaulted, -⟩ := voiceLoop_aborted habort
    exact ⟨agedVoice_countersOk hcounters dt, fun hno => by rw [hfaulted] at hno; cases hno⟩

theorem Progress.finish_voicesOk {p : Progress} (h : p.state.voicesOk) : p.finish.voicesOk := by
  cases p <;> exact h

theorem execTick_voicesOk {now : Time} {s t : State} (hs : s.voicesOk)
    (h : exec (.tick now) s = .next t) : t.voicesOk := by
  simp only [exec, execTick, Host.Outcome.next.injEq] at h
  subst h
  split
  · next hrunning =>
    exact Progress.finish_voicesOk
      (voiceLoop_voicesOk _ (by decide) (fault_of_running hrunning) hs)
  · exact hs

/-- Every operation keeps the voices' bounds, by its row of the access table (R37). -/
theorem exec_operation_voicesOk {i : Instr} {s t : State} (hi : isOperation i = true)
    (hs : s.voicesOk) (h : exec i s = .next t) : t.voicesOk := by
  have hfault := exec_operation_fault_eq_false hi h
  cases exec_accessRow h with
  | busOnly _ hframe =>
    obtain ⟨-, hvoices, -⟩ := hframe
    exact hs.of_voices_eq hvoices hfault
  | playNote => exact execPlayNote_voicesOk hs h
  | tick => exact execTick_voicesOk hs h
  | lifecycle _ hframe =>
    obtain ⟨hvoices, -⟩ | ⟨hvoices, -⟩ := hframe.store
    · exact hs.of_voices_eq hvoices hfault
    · exact voicesOk_of_voices_zero hvoices

/-! ## Every step -/

/-- The voices' bounds do not look at the inputs. -/
theorem sameButInputs.voicesOk {s t : State} (h : sameButInputs s t) (hs : s.voicesOk) :
    t.voicesOk := by
  rw [h]; exact hs

theorem arrive_voicesOk {s : State} (hs : s.voicesOk) : s.arrive.voicesOk :=
  arrive_keeps (fun _ => voicesOk_of_voices_zero rfl) (fun _ _ h => h.voicesOk) hs

/-- Settles O48: from a quiescent state a step runs at most one operation (`step_quiescent`), which keeps
the bounds, as the environment's frame does. -/
theorem everyStepKeepsVoiceBounds : Obligations.EveryStepKeepsVoiceBounds := by
  intro s t hquiet hbounds hstep
  obtain ⟨-, hn⟩ | ⟨i, s', u, hi, hsame, -, -, hexec, hn⟩ := step_quiescent hquiet <;>
    rw [hn] at hstep <;> cases hstep
  · exact arrive_voicesOk hbounds
  · exact arrive_voicesOk (exec_operation_voicesOk hi (hsame.voicesOk hbounds) hexec)

end Sys2Proof.Machine
end

section
/-! PROOFS. The Modulation Engine (44_modulation.md): vibrato and tremolo, and what switches each off. -/

namespace Sys2Proof.Machine

open Sys2Proof

/-! ## The half-period test (R172, R175, R178) -/

theorem halfPeriodHigh_iff (e : ℕ) (period : Time) :
    halfPeriodHigh e period = true ↔
      0 < period.toNat ∧ period.toNat < 2 * (e % period.toNat) := by
  rw [halfPeriodHigh, Bool.and_eq_true, bne_iff_ne, decide_eq_true_iff, Nat.pos_iff_ne_zero]

/-! ## The vibrato sign (R172) -/

theorem vibratoSign_of_high {e : ℕ} {vib : VibratoConfig} (hpos : 0 < vib.period.toNat)
    (hhigh : vib.period.toNat < 2 * (e % vib.period.toNat)) : vibratoSign e vib = 1 :=
  if_pos ((halfPeriodHigh_iff e vib.period).2 ⟨hpos, hhigh⟩)

theorem vibratoSign_of_low {e : ℕ} {vib : VibratoConfig}
    (hlow : 0 < vib.period.toNat → 2 * (e % vib.period.toNat) ≤ vib.period.toNat) :
    vibratoSign e vib = -1 :=
  if_neg fun h => by
    obtain ⟨hpos, hhigh⟩ := (halfPeriodHigh_iff e vib.period).1 h
    exact hhigh.not_ge (hlow hpos)

/-- Settles O39: rounding the half period down moves no natural to the other half, and a period of 1
or 2 has no remainder past its half. -/
theorem vibratoSign_halves : Obligations.VibratoSign := by
  refine fun e vib => ⟨fun hpos hlow => vibratoSign_of_low fun _ => by omega,
    fun hpos hhigh => vibratoSign_of_high hpos (by omega),
    fun hshort => vibratoSign_of_low fun hpos => ?_⟩
  have hmod := Nat.mod_lt e hpos
  omega

theorem abs_vibratoSign (e : ℕ) (vib : VibratoConfig) : |vibratoSign e vib| = 1 := by
  unfold vibratoSign
  split
  · exact abs_one
  · rw [abs_neg, abs_one]

/-! ## The vibrato ramp (R171) -/

theorem rampFactor_before {e : ℕ} {vib : VibratoConfig} (h : e ≤ vib.delay.toNat) :
    rampFactor e vib = 0 := if_pos h

theorem rampFactor_past {e : ℕ} {vib : VibratoConfig} (hdelay : vib.delay.toNat < e)
    (hrise : vib.delay.toNat + vib.rise.toNat ≤ e) : rampFactor e vib = 1 := by
  rw [rampFactor, if_neg hdelay.not_ge, if_pos hrise]

theorem rampFactor_within {e : ℕ} {vib : VibratoConfig} (hdelay : vib.delay.toNat < e)
    (hrise : e < vib.delay.toNat + vib.rise.toNat) :
    rampFactor e vib = ((e : Rat) - (vib.delay.toNat : Rat)) / (vib.rise.toNat : Rat) := by
  rw [rampFactor, if_neg hdelay.not_ge, if_neg hrise.not_ge, Nat.cast_sub hdelay.le]

/-- Inside the rise window the ramp is linear, and strictly between its ends. -/
theorem rampFactor_linear {e : ℕ} {vib : VibratoConfig} (hdelay : vib.delay.toNat < e)
    (hrise : e < vib.delay.toNat + vib.rise.toNat) :
    rampFactor e vib * (vib.rise.toNat : Rat) = (e : Rat) - (vib.delay.toNat : Rat) ∧
    0 < rampFactor e vib ∧ rampFactor e vib < 1 := by
  have hdelay' : (vib.delay.toNat : Rat) < e := mod_cast hdelay
  have hrise' : (e : Rat) < vib.delay.toNat + vib.rise.toNat := mod_cast hrise
  have hpos : (0 : Rat) < vib.rise.toNat := by linarith
  rw [rampFactor_within hdelay hrise]
  exact ⟨div_mul_cancel₀ _ hpos.ne', div_pos (sub_pos.2 hdelay') hpos,
    (div_lt_one hpos).2 (sub_lt_iff_lt_add'.2 hrise')⟩

theorem rampFactor_mem (e : ℕ) (vib : VibratoConfig) :
    0 ≤ rampFactor e vib ∧ rampFactor e vib ≤ 1 := by
  obtain hbefore | hdelay := le_or_gt e vib.delay.toNat
  · rw [rampFactor_before hbefore]; exact ⟨le_rfl, zero_le_one⟩
  · obtain hpast | hrise := le_or_gt (vib.delay.toNat + vib.rise.toNat) e
    · rw [rampFactor_past hdelay hpast]; exact ⟨zero_le_one, le_rfl⟩
    · obtain ⟨-, hpos, hlt⟩ := rampFactor_linear hdelay hrise
      exact ⟨hpos.le, hlt.le⟩

/-! ## The vibrato offset (R173) -/

theorem vibratoOffset_of_rampFactor_zero {e : ℕ} {vib : VibratoConfig} (h : rampFactor e vib = 0) :
    vibratoOffset e vib = 0 := by
  rw [vibratoOffset, h, zero_mul, zero_mul]

theorem vibratoOffset_of_amplitude_zero (e : ℕ) {vib : VibratoConfig} (h : vib.amplitude = 0) :
    vibratoOffset e vib = 0 := by
  rw [vibratoOffset, h, mul_zero, zero_mul]

theorem abs_vibratoOffset_of_rampFactor_one {e : ℕ} {vib : VibratoConfig}
    (h : rampFactor e vib = 1) : |vibratoOffset e vib| = |vib.amplitude| := by
  rw [vibratoOffset, h, one_mul, abs_mul, abs_vibratoSign, mul_one]

/-- Settles O38: the three cases of R171, the offset from the factor at 0 and at 1. -/
theorem vibratoRamp : Obligations.VibratoRamp := by
  intro e vib
  obtain ⟨hnonneg, hle⟩ := rampFactor_mem e vib
  refine ⟨hnonneg, hle, fun hbefore => ?_, fun hdelay hpast => ?_, fun hdelay hrise => ?_⟩
  · have hzero := rampFactor_before hbefore
    exact ⟨hzero, vibratoOffset_of_rampFactor_zero hzero⟩
  · have hone := rampFactor_past hdelay hpast
    exact ⟨hone, abs_vibratoOffset_of_rampFactor_one hone⟩
  · exact ⟨by omega, rampFactor_linear hdelay hrise⟩

/-! ## Tremolo (R175, R176) -/

theorem tremoloValue_of_high (n : Div) {e : ℕ} {trem : TremoloConfig}
    (h : halfPeriodHigh e trem.period = true) : tremoloValue n e trem = n ||| trem.bitMask :=
  if_pos h

theorem tremoloValue_of_low (n : Div) {e : ℕ} {trem : TremoloConfig}
    (h : halfPeriodHigh e trem.period = false) :
    tremoloValue n e trem = n &&& ~~~trem.bitMask :=
  if_neg (Bool.eq_false_iff.1 h)

/-- Tremolo bit by bit: a masked bit shows the phase, another bit is the divisor's own. -/
theorem getLsbD_tremoloValue (n : Div) (e : ℕ) (trem : TremoloConfig) {k : ℕ} (hk : k < 10) :
    (tremoloValue n e trem).getLsbD k =
      if trem.bitMask.getLsbD k then halfPeriodHigh e trem.period else n.getLsbD k := by
  cases hphase : halfPeriodHigh e trem.period
  · rw [tremoloValue_of_low n hphase, BitVec.getLsbD_and, BitVec.getLsbD_not]
    cases trem.bitMask.getLsbD k <;> simp [hk]
  · rw [tremoloValue_of_high n hphase, BitVec.getLsbD_or]
    cases trem.bitMask.getLsbD k <;> simp

/-- Settles O40: bit by bit (`getLsbD_tremoloValue`), the phase being the half-period test. -/
theorem tremoloTouchesMaskedBitsOnly : Obligations.TremoloTouchesMaskedBitsOnly := by
  intro n e trem k hk
  rw [getLsbD_tremoloValue n e trem hk]
  refine ⟨fun hunmasked => ?_, fun hmasked => ?_⟩
  · rw [hunmasked]; rfl
  · rw [hmasked]; exact halfPeriodHigh_iff e trem.period

theorem tremoloValue_of_mask_zero (n : Div) (e : ℕ) {trem : TremoloConfig} (h : trem.bitMask = 0) :
    tremoloValue n e trem = n :=
  BitVec.eq_of_getLsbD_eq fun k hk =>
    (tremoloTouchesMaskedBitsOnly n e trem k hk).1 (by rw [h]; exact BitVec.getLsbD_zero)

/-! ## Switching an effect off (R179) -/

/-- Settles O41: no amplitude, no offset; and with no bit masked every bit is left alone. -/
theorem zeroSwitchesEffectsOff : Obligations.ZeroSwitchesEffectsOff :=
  ⟨fun v hamplitude => by
      rw [effectiveFreq, vibratoOffset_of_amplitude_zero _ hamplitude, add_zero],
    fun clock v hmask => tremoloValue_of_mask_zero (vibratoDivisor clock v) _ hmask⟩

end Sys2Proof.Machine
end

section
/-! PROOFS. The Tick Scheduler (45_tick_scheduler.md): which voices a tick processes (R192, R194) and what
it leaves (R191, R193, R196); END and a pin failure in the lifecycle (R197, R198); what waits on the ports
(R201); operations outside the running state (R199). -/

namespace Sys2Proof.Machine

open Sys2Proof

/-! ## Outside the running state (R199, R215) -/

theorem directWrite_not_running {s : State} (h : s.running = false) (es : List PinEvent) :
    directWrite es s = .next s := by
  rw [directWrite, h]; rfl

theorem directToneWrite_not_running {s : State} (h : s.running = false) (osc : Osc)
    (es : List PinEvent) : directToneWrite osc es s = .next s := by
  rw [directToneWrite, directWrite_not_running h, ite_self]

/-- Every operation but BEGIN asks for the running state, or has no effect at all. -/
theorem exec_operation_not_running {i : Instr} {s : State} (hi : isOperation i = true)
    (hbegin : isBegin i = false) (h : s.running = false) : exec i s = .next s := by
  cases i with
  | beginOp => cases hbegin
  | endOp => rw [exec, execEnd, h]; rfl
  | setTone | setToneAtt | muteTone => exact directToneWrite_not_running h _ _
  | setNoise | setNoiseAtt | muteNoise => exact directWrite_not_running h _
  | playNote => rw [exec, execPlayNote, h]; rfl
  | tick => rw [exec, execTick, h]; rfl
  | reserved9 | reserved10 | reserved11 | reserved12 | reserved13 | reserved14 | reserved15 => rfl
  | toneDivLo | toneDivHi | toneAtt | noiseCtl | noiseAtt | writeToneRegister | writeNoiseRegister
  | writeFrequencyLow | writeFrequencyHigh | writeAttenuation | writeNoiseControl | latch => cases hi

theorem exec_begin_faulted {s : State} (h : s.fault = true) (cfgOk : Bool) (now : Time) :
    exec (.beginOp cfgOk now) s = .next s := by
  rw [exec, execBegin, h]; rfl

/-- Settles O16: a faulted or stopped CORE is not running, and BEGIN asks for `fault = 0` itself. -/
theorem operationsOutsideRunning : Obligations.OperationsOutsideRunning := by
  intro i s hi
  refine ⟨fun hfault => ?_, fun _ hstopped hbegin => ?_⟩
  · cases i with
    | beginOp cfgOk now => exact exec_begin_faulted hfault cfgOk now
    | _ => exact exec_operation_not_running hi rfl (by simp [State.running, hfault])
  · exact exec_operation_not_running hi hbegin (by simp [State.running, hstopped])

/-! ## END, and a pin failure in BEGIN or END (R197, R198, R214) -/

theorem exec_end_running {s : State} (h : s.running = true) :
    exec .endOp s = .next (settlePins false (s.accept .lifecycle).clearVoices) := by
  rw [exec, execEnd, if_pos h]

theorem exec_begin_ok {s : State} (h : s.fault = false) (now : Time) :
    exec (.beginOp true now) s =
      .next (settlePins true ((s.accept .lifecycle).clearVoices.setLastTick now)) := by
  rw [exec, execBegin, h]; rfl

/-- Settles O27: on the cleared state both drives happen (`settlePins_answersOk`). -/
theorem endTearsDown : Obligations.EndTearsDown := by
  intro s hrunning hok hpins
  rw [exec_end_running hrunning,
    settlePins_answersOk false (s := (s.accept .lifecycle).clearVoices) hok hpins]
  obtain ⟨hd, hwe⟩ := hpins
  have hevents : idleEvents = [.data 7 0 0, .weN true] := rfl
  simpa [State.complete, State.setStarted, State.wrote, State.clearVoices, State.accept, hd, hwe]
    using hevents

/-- `t` is `s` after a pin failure that cut no pulse: the fault state, with the store, `started` and the
trace of `s`. -/
structure PinFailureFrame (s t : State) : Prop where
  fault : t.fault = true
  cause : t.faultCause = .busIOError
  started : t.started = s.started
  voices : t.voices = s.voices
  lastTick : t.lastTick = s.lastTick
  trace : t.trace = s.trace
  cutByte : t.cutByte = s.cutByte
  quiescent : t.quiescent

/-- Data drives before a failing event pulse nothing, and with `WE_n` high no pulse is cut. -/
theorem PinFailureFrame.of_onlyData {es : List PinEvent} (hes : onlyData es = true) {s : State}
    (hwe : s.weN = true) : PinFailureFrame s (applyEvents es s).raiseBusIOError := by
  rw [applyEvents_onlyData hes]
  exact ⟨rfl, rfl, rfl, rfl, rfl, rfl, by simp [hwe], rfl, rfl, rfl, rfl⟩

/-- Whichever of the two drives of BEGIN and END fails, only data pins were driven before it. -/
theorem settlePins_pinFailure (b : Bool) {s : State} {k : ℕ} {rest : List Bool} (hwe : s.weN = true)
    (hk : k < 2) (hanswers : s.inputs.ioFail = List.replicate k false ++ true :: rest) :
    PinFailureFrame s (settlePins b s) := by
  obtain ⟨pre, e, post, hsplit, hasks, hasked, hdata⟩ :
      ∃ pre e post, idleEvents = pre ++ e :: post ∧ e.asks = true ∧ askedOf pre = k ∧
        onlyData pre = true := by
    interval_cases k
    · exact ⟨[], _, _, rfl, rfl, rfl, rfl⟩
    · exact ⟨[.data 7 0 0], _, _, rfl, rfl, rfl, rfl⟩
  rw [← hasked] at hanswers
  rw [settlePins, hsplit, drivePins_first_failing hasks hanswers]
  exact PinFailureFrame.of_onlyData hdata hwe

/-- Settles O28: the failing drive comes after the voices are cleared and before `started` is written
(`settlePins_pinFailure`). -/
theorem pinFailureInLifecycle : Obligations.PinFailureInLifecycle := by
  intro s now k rest hfault ⟨_, hwe⟩ hk hanswers
  refine ⟨⟨_, exec_begin_ok hfault now, ?_⟩, fun hstarted => ?_⟩
  · have h := settlePins_pinFailure true
      (s := (s.accept .lifecycle).clearVoices.setLastTick now) hwe hk hanswers
    exact ⟨h.fault, h.cause, h.started, h.voices, h.lastTick, h.trace, h.cutByte, h.quiescent⟩
  · have hrunning : s.running = true := by simp [State.running, hstarted, hfault]
    have h := settlePins_pinFailure false (s := (s.accept .lifecycle).clearVoices) hwe hk hanswers
    exact ⟨_, exec_end_running hrunning, h.fault, h.cause, h.started.trans hstarted, h.voices,
      h.lastTick, h.trace, h.cutByte, h.quiescent⟩

/-! ## Waiting ticks (R201) -/

/-- Settles O58: the frame's tick joins the waiting one by `or`, and its `now` replaces the old one. -/
theorem waitingTicksMerge : Obligations.WaitingTicksMerge :=
  fun inp f rest hwaits =>
    ⟨by rw [Inputs.after, hwaits, Bool.true_or], rfl, fun hnone => by rw [Inputs.after, hnone]⟩

/-! ## Which voices the loop processes (R192, R194) -/

/-- The slots of `is` that the loop processes from `s`, as `processedSlots` has it of all three. -/
def loopSlots (s : State) (is : List Slot) : List Slot :=
  if s.params.earlyStop then is.takeWhile fun i => (s.voice i).playing
  else is.filter fun i => (s.voice i).playing

theorem loopSlots_sublist (s : State) (is : List Slot) : (loopSlots s is).Sublist is := by
  unfold loopSlots
  split
  · exact List.takeWhile_sublist _
  · exact List.filter_sublist

theorem processedSlots_nodup (s : State) : (processedSlots s).Nodup :=
  (loopSlots_sublist s [0, 1, 2]).nodup (by decide)

theorem loopSlots_cons_playing {s : State} {i : Slot} (h : (s.voice i).playing = true)
    (is : List Slot) : loopSlots s (i :: is) = i :: loopSlots s is := by
  unfold loopSlots
  split
  · exact List.takeWhile_cons_of_pos h
  · exact List.filter_cons_of_pos h

theorem loopSlots_cons_idle {s : State} {i : Slot} (h : (s.voice i).playing = false)
    (is : List Slot) :
    loopSlots s (i :: is) = if s.params.earlyStop then [] else loopSlots s is := by
  have hidle : ¬(s.voice i).playing = true := Bool.eq_false_iff.1 h
  unfold loopSlots
  split
  · exact List.takeWhile_cons_of_neg hidle
  · exact List.filter_cons_of_neg hidle

/-- The choice looks at EARLY_STOP and the voices of its slots only. -/
theorem loopSlots_congr {s t : State} {is : List Slot} (hparams : t.params = s.params)
    (hvoices : ∀ i ∈ is, t.voice i = s.voice i) : loopSlots t is = loopSlots s is := by
  induction is with
  | nil => simp [loopSlots]
  | cons i is ih =>
    obtain ⟨hi, his⟩ := List.forall_mem_cons.1 hvoices
    cases hplaying : (s.voice i).playing with
    | true =>
      rw [loopSlots_cons_playing hplaying, loopSlots_cons_playing (by rw [hi, hplaying]), ih his]
    | false =>
      rw [loopSlots_cons_idle hplaying, loopSlots_cons_idle (by rw [hi, hplaying]), ih his, hparams]

/-! ## The loop is the processing of those voices, one after the other (R193) -/

theorem processVoice_going_frame {dt : Time} {i : Slot} {s u : State}
    (h : processVoice dt i s = .going u) : LoopFrame s u [i] := by
  obtain ⟨hframe, -, -⟩ := processVoice_frame dt i s
  rwa [h] at hframe

/-- The voices still to come are as they were. -/
theorem processVoice_going_later {dt : Time} {i : Slot} {s u : State}
    (h : processVoice dt i s = .going u) {is : List Slot} (hi : i ∉ is) :
    ∀ j ∈ is, u.voice j = s.voice j := fun j hj =>
  (processVoice_going_frame h).others j fun hmem => hi (List.mem_singleton.1 hmem ▸ hj)

/-- `processVoice` on each slot in order. -/
def processVoices (dt : Time) : List Slot → State → Progress
  | [], s => .going s
  | i :: is, s => (processVoice dt i s).andThen (processVoices dt is)

/-- Processing a voice changes no voice to come, so the slots can be chosen before the loop. -/
theorem voiceLoop_eq_processVoices (dt : Time) {is : List Slot} (hnodup : is.Nodup) (s : State) :
    voiceLoop dt is s = processVoices dt (loopSlots s is) s := by
  induction is generalizing s with
  | nil => simp [voiceLoop, loopSlots, processVoices]
  | cons i is ih =>
    obtain ⟨hi, his⟩ := List.nodup_cons.1 hnodup
    cases hplaying : (s.voice i).playing with
    | true =>
      rw [voiceLoop, if_pos hplaying, loopSlots_cons_playing hplaying, processVoices]
      cases hfirst : processVoice dt i s with
      | aborted u => rfl
      | going u =>
        have hslots : loopSlots u is = loopSlots s is :=
          loopSlots_congr (processVoice_going_frame hfirst).params (processVoice_going_later hfirst hi)
        rw [Progress.andThen_going, Progress.andThen_going, ih his, hslots]
    | false =>
      rw [voiceLoop, if_neg (Bool.eq_false_iff.1 hplaying), loopSlots_cons_idle hplaying]
      split
      · rfl
      · exact ih his s

/-- A tick in the running state, whatever the pin driver answers. -/
theorem exec_tick_running {s : State} (hrunning : s.running = true) (now : Time) :
    exec (.tick now) s = .next (processVoices (now - s.lastTick) (processedSlots s)
      ((s.accept .tickStart).setLastTick now)).finish := by
  rw [exec, execTick, if_pos hrunning, runTick, voiceLoop_eq_processVoices _ (by decide)]
  rfl

/-! ## Whatever the pin driver answers -/

theorem processVoices_frame (dt : Time) (is : List Slot) (s : State) :
    LoopFrame s (processVoices dt is s).state is := by
  induction is generalizing s with
  | nil => exact .refl s _
  | cons i is ih => exact .andThen (l := [i]) (processVoice_frame dt i s).1 fun u _ => ih u

theorem Progress.finish_voice (p : Progress) (j : Slot) : p.finish.voice j = p.state.voice j := by
  cases p <;> rfl

theorem Progress.finish_lastTick (p : Progress) : p.finish.lastTick = p.state.lastTick := by
  cases p <;> rfl

/-- The first voice processed has its time advanced before any pin moves, and no envelope step or later
voice takes that back (R193). -/
theorem processVoices_head_elapsedTime (dt : Time) {i : Slot} {is : List Slot} (hi : i ∉ is)
    (s : State) : ((processVoices dt (i :: is) s).state.voice i).elapsedTime =
      (agedVoice dt (s.voice i)).elapsedTime := by
  obtain ⟨-, -, hvoice⟩ := processVoice_frame dt i s
  have hfirst : ((processVoice dt i s).state.voice i).elapsedTime =
      (agedVoice dt (s.voice i)).elapsedTime := by
    obtain h | h := hvoice <;> rw [h]; rfl
  rw [processVoices]
  cases hp : processVoice dt i s with
  | aborted u => rw [hp] at hfirst; exact hfirst
  | going u =>
    rw [hp] at hfirst
    rw [Progress.andThen_going, (processVoices_frame dt is u).others i hi]
    exact hfirst

/-- The difference of two timestamps, modulo `2^32` (R191). -/
theorem toNat_tickDelta (now last : Time) :
    (now - last).toNat = (now.toNat + 2 ^ 32 - last.toNat) % 2 ^ 32 := by
  rw [BitVec.toNat_sub]
  omega

/-- Settles O44: voice 0, if it plays, is the first one processed, and it is far enough from the end of its
width (`toNat_agedVoice_elapsedTime`). -/
theorem tickTakesTheModularDifference : Obligations.TickTakesTheModularDifference := by
  intro s now hrunning hbounds
  refine ⟨_, exec_tick_running hrunning now, ?_, fun hplaying => ?_⟩
  · rw [Progress.finish_lastTick, (processVoices_frame _ _ _).last]
    rfl
  · have hslots : processedSlots s = 0 :: loopSlots s [1, 2] := loopSlots_cons_playing hplaying _
    have hlater : 0 ∉ loopSlots s [1, 2] := fun h =>
      absurd ((loopSlots_sublist s [1, 2]).subset h) (by decide)
    obtain ⟨-, helapsed⟩ := hbounds 0
    rw [Progress.finish_voice, hslots, processVoices_head_elapsedTime _ hlater, ← toNat_tickDelta]
    exact toNat_agedVoice_elapsedTime hplaying (helapsed (fault_of_running hrunning)) _

theorem mem_slots : ∀ i : Slot, i ∈ ([0, 1, 2] : List Slot) := by decide

/-- What stands in an ascending list before an element taken was taken too. -/
theorem holds_of_mem_takeWhile {α : Type*} [LinearOrder α] {p : α → Bool} {l : List α}
    (hsorted : l.Pairwise (· < ·)) {i j : α} (hj : j ∈ l.takeWhile p) (hi : i ∈ l) (hij : i ≤ j) :
    p i = true := by
  induction l with
  | nil => cases hi
  | cons a l ih =>
    obtain ⟨ha, hl⟩ := List.pairwise_cons.1 hsorted
    by_cases hpa : p a = true
    · obtain rfl | hi' := List.mem_cons.1 hi
      · exact hpa
      · rw [List.takeWhile_cons_of_pos hpa] at hj
        obtain rfl | hj' := List.mem_cons.1 hj
        · exact absurd (ha i hi') hij.not_gt
        · exact ih hl hj' hi'
    · rw [List.takeWhile_cons_of_neg hpa] at hj
      cases hj

/-- Under EARLY_STOP nothing at or behind an idle voice is processed (R194). -/
theorem not_mem_processedSlots_of_earlyStop {s : State} (hstop : s.params.earlyStop = true)
    {i j : Slot} (hidle : (s.voice i).playing = false) (hij : i ≤ j) : j ∉ processedSlots s := by
  intro hj
  rw [processedSlots, if_pos hstop] at hj
  have hplaying := holds_of_mem_takeWhile (by decide) hj (mem_slots i) hij
  rw [hidle] at hplaying
  cases hplaying

/-- Without EARLY_STOP every playing voice is processed (R194). -/
theorem mem_processedSlots_of_playing {s : State} (hstop : s.params.earlyStop = false) {j : Slot}
    (hplaying : (s.voice j).playing = true) : j ∈ processedSlots s := by
  rw [processedSlots, if_neg (Bool.eq_false_iff.1 hstop)]
  exact List.mem_filter.2 ⟨mem_slots j, hplaying⟩

/-- A voice that was processed and whose tick went on is aged and its envelope stepped (R193). -/
theorem processVoices_voice {dt : Time} {is : List Slot} (hnodup : is.Nodup) {s t : State}
    (h : processVoices dt is s = .going t) :
    ∀ i ∈ is, t.voice i = envelopeVoice dt (agedVoice dt (s.voice i)) := by
  induction is generalizing s with
  | nil => exact fun _ hi => by cases hi
  | cons i is ih =>
    obtain ⟨hi, his⟩ := List.nodup_cons.1 hnodup
    obtain ⟨u, hu, ht⟩ := andThen_going h
    obtain ⟨-, hvoice, -⟩ := processVoice_frame dt i s
    have hframe := processVoices_frame dt is u
    rw [ht] at hframe
    refine List.forall_mem_cons.2 ⟨(hframe.others i hi).trans (hvoice u hu), fun j hj => ?_⟩
    rw [ih his ht j hj, processVoice_going_later hu hi j hj]

/-! ## In a fault-free run -/

/-- The operation goes on, with no failure to come. -/
def Progress.FaultFree (p : Progress) : Prop := ∃ t, p = .going t ∧ t.answersOk

theorem Progress.FaultFree.andThen {p : Progress} {f : State → Progress} (hp : p.FaultFree)
    (hf : ∀ u, u.answersOk → (f u).FaultFree) : (p.andThen f).FaultFree := by
  obtain ⟨u, rfl, hu⟩ := hp
  exact hf u hu

theorem drivePins_faultFree {s : State} (h : s.answersOk) (es : List PinEvent) :
    (drivePins es s).FaultFree :=
  ⟨_, drivePins_answersOk h es, answersOk_applyEvents h es⟩

theorem processVoice_faultFree (dt : Time) (i : Slot) {s : State} (h : s.answersOk) :
    (processVoice dt i s).FaultFree :=
  .andThen (.andThen (drivePins_faultFree (answersOk_setVoice (answersOk_moveTo h _) i _) _)
      fun _ hu => drivePins_faultFree (answersOk_moveTo hu _) _)
    fun _ hu => drivePins_faultFree (answersOk_setVoice (answersOk_moveTo hu _) i _) _

/-- From any pins: only the driver's answers decide whether the loop comes to its end. -/
theorem processVoices_faultFree (dt : Time) (is : List Slot) {s : State} (h : s.answersOk) :
    (processVoices dt is s).FaultFree := by
  induction is generalizing s with
  | nil => exact ⟨s, rfl, h⟩
  | cons i is ih => exact (processVoice_faultFree dt i h).andThen fun _ hu => ih hu

theorem processedBytes_congr {s t : State} {i : Slot} (hparams : t.params = s.params)
    (hvoice : t.voice i = s.voice i) (dt : Time) : processedBytes t dt i = processedBytes s dt i := by
  simp only [processedBytes, hparams, hvoice]

/-- From idle pins each slot's five bytes join the trace in order, and the pins are idle again. -/
theorem processVoices_bus (dt : Time) {is : List Slot} (hnodup : is.Nodup) {s : State}
    (hok : s.answersOk) (hpins : s.pinsIdle) :
    ∃ t, processVoices dt is s = .going t ∧ t.pinsIdle ∧ sameFlags s t ∧
      t.trace = s.trace ++ is.flatMap (processedBytes s dt) := by
  induction is generalizing s with
  | nil => exact ⟨s, rfl, hpins, .refl s, by simp⟩
  | cons i is ih =>
    obtain ⟨hi, his⟩ := List.nodup_cons.1 hnodup
    obtain ⟨u, hu, huok, hupins, huflags, hutrace, -⟩ := processVoice_answersOk dt i hok hpins
    have hparams : u.params = s.params := (processVoice_going_frame hu).params
    have hbytes : is.flatMap (processedBytes u dt) = is.flatMap (processedBytes s dt) :=
      List.flatMap_congr fun j hj =>
        processedBytes_congr hparams (processVoice_going_later hu hi j hj) dt
    obtain ⟨t, ht, htpins, htflags, httrace⟩ := ih his huok hupins
    refine ⟨t, by rw [processVoices, hu, Progress.andThen_going, ht], htpins,
      huflags.trans htflags, ?_⟩
    rw [httrace, hutrace, hbytes, List.append_assoc, List.flatMap_cons]

/-- Settles O42: the bus side by `processVoices_bus`, the voices by `processVoices_voice`, and the rest by
the loop's frame. -/
theorem tickProcessesVoicesInOrder : Obligations.TickProcessesVoicesInOrder := by
  intro s now hrunning hok hpins dt
  obtain ⟨t, ht, htpins, ⟨-, hfault, hcause, hcut⟩, htrace⟩ :=
    processVoices_bus dt (processedSlots_nodup s) (s := (s.accept .tickStart).setLastTick now) hok hpins
  have hframe := processVoices_frame dt (processedSlots s) ((s.accept .tickStart).setLastTick now)
  rw [ht] at hframe
  have hvoices := processVoices_voice (processedSlots_nodup s) ht
  exact ⟨t.complete, by rw [exec_tick_running hrunning, ht, Progress.finish_going], hframe.last, htrace,
    hvoices, hframe.others, hframe.params, hframe.noise, hframe.started, hfault, hcause, hcut, rfl, rfl,
    htpins⟩

theorem length_processedBytes (s : State) (dt : Time) (i : Slot) :
    (processedBytes s dt i).length = 5 := rfl

/-- Settles O43: five bytes for each of at most three slots; with no voice playing the loop does nothing
(`voiceLoop_idle`). -/
theorem tickSize : Obligations.TickSize := by
  intro s now hrunning hpins
  refine ⟨fun hok => ?_, fun hidle => ?_⟩
  · obtain ⟨t, hexec, -, htrace, -⟩ := tickProcessesVoicesInOrder s now hrunning hok hpins
    refine ⟨t, hexec, ?_, (loopSlots_sublist s [0, 1, 2]).length_le⟩
    simp only [htrace, List.length_append, List.length_flatMap, length_processedBytes, List.map_const',
      List.sum_replicate, smul_eq_mul, Nat.mul_comm]
  · have hloop := voiceLoop_idle (tickDelta now s.lastTick) [0, 1, 2]
      (s := (s.accept .tickStart).setLastTick now) hidle
    rw [exec, execTick, if_pos hrunning, runTick, hloop]
    rfl

/-- Settles O45: a voice at or behind an idle one is not among the processed slots, which are all the loop
touches; without EARLY_STOP every playing voice is among them, and the loop comes to its end. -/
theorem earlyStopFreezesHigherVoices : Obligations.EarlyStopFreezesHigherVoices := by
  intro s now hrunning
  refine ⟨fun hstop i j hidle hij => ⟨_, exec_tick_running hrunning now, ?_⟩,
    fun hstop hok j hplaying => ?_⟩
  · rw [Progress.finish_voice, (processVoices_frame _ _ _).others j
      (not_mem_processedSlots_of_earlyStop hstop hidle hij)]
    rfl
  · obtain ⟨t, ht, -⟩ := processVoices_faultFree (now - s.lastTick) (processedSlots s)
      (s := (s.accept .tickStart).setLastTick now) hok
    have hvoice := processVoices_voice (processedSlots_nodup s) ht j
      (mem_processedSlots_of_playing hstop hplaying)
    refine ⟨t.complete, by rw [exec_tick_running hrunning, ht, Progress.finish_going], ?_⟩
    exact congrArg Voice.elapsedTime hvoice

end Sys2Proof.Machine
end

section
/-! PROOFS. Exceptions (60_exceptions.md): what enters the fault state (R211, R213, R214) and how it is left
(R215, R220); where a pin failure finds the pulse, and what a cut pulse leaves in the chip image (R214). -/

namespace Sys2Proof.Machine

open Sys2Proof

/-! ## ConfigError (R213) -/

/-- Settles O25: BEGIN tests the configuration's answer before it writes anything. -/
theorem configErrorAtBegin : Obligations.ConfigErrorAtBegin := by
  intro s now hfault
  rw [exec, execBegin, hfault]
  rfl

/-! ## Out of the fault state (R215, R220) -/

/-- A frame without a reset changes the inputs only. -/
theorem arrive_sameButInputs {s : State} (h : s.noResetNext) : sameButInputs s s.arrive := by
  unfold State.arrive
  split
  · rfl
  · next f rest hscript => simp [h f (by simp [hscript]), sameButInputs]

/-- A step in the fault state runs nothing: a request is taken off its port, and the environment's frame
lands. -/
theorem step_faulted {s : State} (hquiet : s.quiescent) (hfault : s.fault = true) :
    ∃ u, sameButInputs s u ∧ u.inputs.script = s.inputs.script ∧ step s = .next u.arrive := by
  obtain ⟨-, hstep⟩ | ⟨i, s', u, hi, hsame, -, hscript, hexec, hstep⟩ := step_quiescent hquiet
  · exact ⟨s, rfl, rfl, hstep⟩
  · have hfault' : s'.fault = true := by rw [hsame]; exact hfault
    obtain ⟨hnoEffect, -⟩ := operationsOutsideRunning i s' hi
    rw [hnoEffect hfault'] at hexec
    cases hexec
    exact ⟨s', hsame, hscript, hstep⟩

/-- Settles O29: nothing runs (`step_faulted`), so only the frame that lands decides. -/
theorem faultStateIsSticky : Obligations.FaultStateIsSticky := by
  intro s hquiet hfault
  obtain ⟨u, hsame, hscript, hstep⟩ := step_faulted hquiet hfault
  refine ⟨u.arrive, hstep, fun hnoReset => ?_, fun f rest hframe hreset => ?_⟩
  · have hnoReset' : u.noResetNext := by rwa [State.noResetNext, hscript]
    rw [arrive_sameButInputs hnoReset', hsame]
  · rw [arrive_reset (hscript.trans hframe) hreset]
    rfl

/-! ## Into the fault state (R211, R214) -/

/-- From `s` a failing answer of the pin driver led to `t`: the fault state by BusIOError, with the pins
idle and no operation in progress. -/
structure PinFault (s t : State) : Prop where
  fault : t.fault = true
  cause : t.faultCause = .busIOError
  answer : true ∈ s.inputs.ioFail
  pins : t.pinsIdle
  atRest : t.atRest

/-- What an operation under way did to `fault` since `s`: nothing yet, with no answers but those of `s`
left; or a failing answer aborted it. -/
def Progress.PinFaultOnly (s : State) : Progress → Prop
  | .going t => t.fault = s.fault ∧ t.inputs.ioFail ⊆ s.inputs.ioFail
  | .aborted t => PinFault s t

/-- What driven pins can do to `fault`: nothing, or what a failing answer does. -/
def FaultedByPins (s t : State) : Prop := t.fault = s.fault ∨ PinFault s t

theorem applyEvent_ioFail_subset (e : PinEvent) (s : State) :
    (applyEvent e s).inputs.ioFail ⊆ s.inputs.ioFail := by
  cases e with
  | data | weN => exact List.tail_subset _
  | wait => exact List.Subset.refl _

theorem applyEvents_ioFail_subset (es : List PinEvent) (s : State) :
    (applyEvents es s).inputs.ioFail ⊆ s.inputs.ioFail := by
  induction es generalizing s with
  | nil => exact List.Subset.refl _
  | cons e es ih => exact List.Subset.trans (ih _) (applyEvent_ioFail_subset e s)

/-- Only an answer in the list fails (R212). -/
theorem mem_ioFail_of_fails {s : State} {e : PinEvent} (h : s.fails e = true) :
    true ∈ s.inputs.ioFail := by
  cases hanswers : s.inputs.ioFail with
  | nil => simp [State.fails, hanswers] at h
  | cons a l =>
    obtain ⟨-, rfl⟩ : e.asks = true ∧ a = true := by simpa [State.fails, hanswers] using h
    exact List.mem_cons_self

theorem drivePins_pinFaultOnly (es : List PinEvent) (s : State) :
    (drivePins es s).PinFaultOnly s := by
  obtain hgo | ⟨pre, e, post, -, hfails, habort⟩ := drivePins_cases es s
  · obtain ⟨-, -, hfault, -⟩ := applyEvents_frame es s
    rw [hgo]
    exact ⟨hfault, applyEvents_ioFail_subset es s⟩
  · rw [habort]
    exact ⟨rfl, rfl, applyEvents_ioFail_subset pre s (mem_ioFail_of_fails hfails), ⟨rfl, rfl⟩, rfl, rfl⟩

namespace Progress.PinFaultOnly

variable {s t : State} {p : Progress}

/-- An earlier start with the same `fault` and at least the same answers. -/
theorem of_start (hfault : t.fault = s.fault) (hanswers : t.inputs.ioFail ⊆ s.inputs.ioFail)
    (h : p.PinFaultOnly t) : p.PinFaultOnly s := by
  cases p with
  | going u => exact ⟨h.1.trans hfault, List.Subset.trans h.2 hanswers⟩
  | aborted u => exact ⟨h.fault, h.cause, hanswers h.answer, h.pins, h.atRest⟩

theorem andThen {f : State → Progress} (hp : p.PinFaultOnly s) (hf : ∀ u, (f u).PinFaultOnly u) :
    (p.andThen f).PinFaultOnly s := by
  cases p with
  | going u => exact of_start hp.1 hp.2 (hf u)
  | aborted u => exact hp

theorem finish (h : p.PinFaultOnly s) : FaultedByPins s p.finish := by
  cases p with
  | going u => exact .inl h.1
  | aborted u => exact .inr h

theorem modulationStep (i : Slot) (s : State) : (modulationStep i s).PinFaultOnly s :=
  andThen (drivePins_pinFaultOnly _ s) fun u =>
    of_start (t := u.moveTo _) rfl (List.Subset.refl _) (drivePins_pinFaultOnly _ _)

theorem processVoice (dt : Time) (i : Slot) (s : State) : (processVoice dt i s).PinFaultOnly s :=
  andThen
    (of_start (t := (s.moveTo _).setVoice i _) rfl (List.Subset.refl _) (modulationStep i _))
    fun u => of_start (t := (u.moveTo _).setVoice i _) rfl (List.Subset.refl _)
      (drivePins_pinFaultOnly _ _)

theorem processVoices (dt : Time) (is : List Slot) (s : State) :
    (processVoices dt is s).PinFaultOnly s := by
  induction is generalizing s with
  | nil => exact ⟨rfl, List.Subset.refl _⟩
  | cons i is ih => exact andThen (processVoice dt i s) ih

end Progress.PinFaultOnly

namespace FaultedByPins

variable {s t : State}

theorem of_start {u : State} (hfault : u.fault = s.fault) (hanswers : u.inputs = s.inputs)
    (h : FaultedByPins u t) : FaultedByPins s t :=
  h.imp (·.trans hfault) fun h => ⟨h.fault, h.cause, hanswers ▸ h.answer, h.pins, h.atRest⟩

theorem directWrite {es : List PinEvent} (h : directWrite es s = .next t) : FaultedByPins s t := by
  simp only [Machine.directWrite, Host.Outcome.next.injEq] at h
  subst h
  split
  · exact of_start (u := s.accept .direct) rfl rfl (drivePins_pinFaultOnly es _).finish
  · exact .inl rfl

theorem directToneWrite {osc : Osc} {es : List PinEvent} (h : directToneWrite osc es s = .next t) :
    FaultedByPins s t := by
  simp only [Machine.directToneWrite] at h
  split at h
  · cases h; exact .inl rfl
  · exact directWrite h

theorem busSteps {es : List PinEvent} (h : busSteps es s = .next t) : FaultedByPins s t := by
  cases h
  have hdrive := drivePins_pinFaultOnly es s
  cases hp : drivePins es s with
  | going u => rw [hp] at hdrive; exact .inl hdrive.1
  | aborted u => rw [hp] at hdrive; exact .inr hdrive

theorem toneSteps {osc : Osc} {es : List PinEvent} (h : toneSteps osc es s = .next t) :
    FaultedByPins s t := by
  simp only [Machine.toneSteps] at h
  split at h
  · cases h
  · exact busSteps h

theorem settlePins (b : Bool) (s : State) : FaultedByPins s (settlePins b s) :=
  Progress.PinFaultOnly.finish (.andThen (drivePins_pinFaultOnly _ s) fun _ =>
    ⟨rfl, List.Subset.refl _⟩)

end FaultedByPins

/-- Everything an instruction can do to `fault`: nothing; or the ConfigError of BEGIN; or, where it drives
pins, the BusIOError of a failing answer (R211). -/
inductive FaultRow (s t : State) : Instr → Prop
  | same {i : Instr} (h : t.fault = s.fault) : FaultRow s t i
  | config {now : Time} (h : t.faultCause = .configError) : FaultRow s t (.beginOp false now)
  | pins {i : Instr} (hi : isPlayNote i = false) (h : PinFault s t) : FaultRow s t i

theorem FaultRow.of_pins {i : Instr} {s t : State} (hi : isPlayNote i = false)
    (h : FaultedByPins s t) : FaultRow s t i := h.elim .same (.pins hi)

/-- Every instruction that answers a next state follows a row of the faults (R211, R213, R214). -/
theorem exec_faultRow {i : Instr} {s t : State} (h : exec i s = .next t) : FaultRow s t i := by
  cases i with
  | beginOp cfgOk now =>
    cases hfault : s.fault with
    | true =>
      rw [exec_begin_faulted hfault] at h
      cases h
      exact .same rfl
    | false =>
      cases cfgOk with
      | true =>
        rw [exec_begin_ok hfault] at h
        cases h
        exact .of_pins rfl (.of_start (u := (s.accept _).clearVoices.setLastTick now) rfl rfl
          (.settlePins true _))
      | false =>
        rw [configErrorAtBegin s now hfault] at h
        cases h
        exact .config rfl
  | endOp =>
    cases hrunning : s.running with
    | true =>
      rw [exec_end_running hrunning] at h
      cases h
      exact .of_pins rfl (.of_start (u := (s.accept _).clearVoices) rfl rfl (.settlePins false _))
    | false =>
      rw [exec_operation_not_running rfl rfl hrunning] at h
      cases h
      exact .same rfl
  | playNote f duration cfg index =>
    exact .same (by rw [execPlayNote_frame h])
  | tick now =>
    cases hrunning : s.running with
    | true =>
      rw [exec_tick_running hrunning] at h
      cases h
      exact .of_pins rfl (.of_start (u := (s.accept _).setLastTick now) rfl rfl
        (Progress.PinFaultOnly.processVoices _ _ _).finish)
    | false =>
      rw [exec_operation_not_running rfl rfl hrunning] at h
      cases h
      exact .same rfl
  | reserved9 | reserved10 | reserved11 | reserved12 | reserved13 | reserved14 | reserved15 =>
    cases h; exact .same rfl
  | setTone | setToneAtt | muteTone => exact .of_pins rfl (.directToneWrite h)
  | setNoise | setNoiseAtt | muteNoise => exact .of_pins rfl (.directWrite h)
  | toneDivLo | toneAtt | writeToneRegister => exact .of_pins rfl (.toneSteps h)
  | toneDivHi | noiseCtl | noiseAtt | writeNoiseRegister | writeFrequencyLow | writeFrequencyHigh
  | writeAttenuation | writeNoiseControl | latch => exact .of_pins rfl (.busSteps h)

/-- Settles O24: the causes are the rows of `exec_faultRow`, since `fault` was clear. -/
theorem faultsComeFromTheirCauses : Obligations.FaultsComeFromTheirCauses := by
  intro i s t hclear hexec hfault
  cases exec_faultRow hexec with
  | same hsame => rw [hsame, hclear] at hfault; cases hfault
  | config hcause => exact .inl ⟨hcause, _, rfl⟩
  | pins hi hpin =>
    obtain ⟨hseq, hbusy⟩ := hpin.atRest
    exact .inr ⟨hpin.cause, hpin.answer, hi, hpin.pins, hbusy, hseq⟩

/-! ## Where a pin failure finds the pulse (R214) -/

/-- Data drives and then `latch()`, from `WE_n` high, failing at one of their asked events, which are the
drives and the three of `latch()`: the byte is in the trace only past the rising edge, and its pulse is cut
at that edge only. -/
theorem drivePins_busWrite_pinFailure {es : List PinEvent} (hes : onlyData es = true) {s : State}
    (hwe : s.weN = true) (p : Config.Params) {k : ℕ} {rest : List Bool} (hk : k < es.length + 3)
    (hanswers : s.inputs.ioFail = List.replicate k false ++ true :: rest) :
    ∃ t, drivePins (es ++ latchEvents p) s = .aborted t ∧
      t.trace = (if k = es.length + 2 then s.trace ++ [pinsAfter s.d es] else s.trace) ∧
      t.cutByte = (if k = es.length + 1 then some (pinsAfter s.d es) else s.cutByte) := by
  induction es generalizing s k with
  | nil =>
    simp only [List.length_nil, Nat.zero_add] at hk
    interval_cases k <;>
      simp [latchEvents, drivePins, State.fails, PinEvent.asks, hanswers, hwe, pinsAfter]
  | cons e es ih =>
    cases e with
    | weN l => simp [onlyData] at hes
    | wait t => simp [onlyData] at hes
    | data hi lo v =>
      cases k with
      | zero =>
        exact ⟨s.raiseBusIOError, by simp [drivePins, State.fails, PinEvent.asks, hanswers], by simp,
          by simp [hwe]⟩
      | succ k =>
        have hok : s.fails (.data hi lo v) = false := by
          simp [State.fails, hanswers, List.replicate_succ]
        obtain ⟨t, hdrive, htrace, hcut⟩ := ih (s := applyEvent (.data hi lo v) s) (k := k)
          (by simpa [onlyData] using hes) hwe (by simpa using hk)
          (by simp [hanswers, List.replicate_succ])
        refine ⟨t, by simpa [drivePins, hok] using hdrive, ?_, ?_⟩
        · simpa [pinsAfter] using htrace
        · simpa [pinsAfter] using hcut

/-- A direct write that a pin failure aborts. -/
theorem directWrite_aborted {es : List PinEvent} {s t : State} (hrunning : s.running = true)
    (h : drivePins es (s.accept .direct) = .aborted t) : directWrite es s = .next t := by
  rw [directWrite, if_pos hrunning, runDirect, h, Progress.finish_aborted]

/-- Settles O22: five data drives and `latch()` are eight asked events (`drivePins_busWrite_pinFailure`);
whichever fails, the fault state is entered (`drivePins_pinFaultOnly`). -/
theorem pinFailureEntersTheFaultState : Obligations.PinFailureEntersTheFaultState := by
  intro s osc level k rest hrunning ⟨hd, hwe⟩ hosc hk hanswers
  obtain ⟨t, hdrive, htrace, hcut⟩ := drivePins_busWrite_pinFailure
    (es := toneRegisterEvents osc ++ attenuationEvents level) rfl (s := s.accept .direct) hwe s.params
    hk hanswers
  have hpin : PinFault (s.accept .direct) t := by
    have h := drivePins_pinFaultOnly (toneAttEvents s.params osc level) (s.accept .direct)
    rwa [toneAttEvents, hdrive] at h
  obtain ⟨hseq, hbusy⟩ := hpin.atRest
  have hexec : exec (.setToneAtt osc level) s = .next t :=
    (if_neg hosc).trans (directWrite_aborted hrunning hdrive)
  rw [State.accept_d, hd, pinsAfter_toneAtt] at htrace hcut
  exact ⟨t, hexec, hpin.fault, hpin.cause, hbusy, hseq, hpin.pins, htrace, hcut,
    exec_busOnly_sameOffBus rfl hexec⟩

/-! ## A cut pulse in the chip image (R58, R214) -/

/-- The chip's selection lost, as after a cut latch byte (R214). -/
def ChipImage.deselect (c : ChipImage) : ChipImage := { c with sel := none }

@[simp] theorem ChipImage.div_deselect (c : ChipImage) (j : Slot) : c.deselect.div j = c.div j := rfl

@[simp] theorem ChipImage.att_deselect (c : ChipImage) (j : Slot) : c.deselect.att j = c.att j := rfl

@[simp] theorem ChipImage.nctl_deselect (c : ChipImage) : c.deselect.nctl = c.nctl := rfl

@[simp] theorem ChipImage.natt_deselect (c : ChipImage) : c.deselect.natt = c.natt := rfl

theorem ChipImage.deselect_setAtt (c : ChipImage) (i : Slot) (a : Option Att) :
    c.deselect.setAtt i a = (c.setAtt i a).deselect := by fin_cases i <;> rfl

theorem ChipImage.deselect_setDiv (c : ChipImage) (i : Slot) (r : ChipDivisor) :
    c.deselect.setDiv i r = (c.setDiv i r).deselect := by fin_cases i <;> rfl

theorem ChipImage.select_setDiv (c : ChipImage) (id : BitVec 3) (i : Slot) (r : ChipDivisor) :
    (c.select id).setDiv i r = (c.setDiv i r).select id := by fin_cases i <;> rfl

theorem ChipImage.cut_toneAttByte (c : ChipImage) (i : Slot) (level : Att) :
    c.cut (toneAttByte (oscOf i) level) = (c.setAtt i none).deselect := by
  obtain ⟨hmarker, hfield, hkind, -⟩ := fields_toneAttByte (oscOf i) level
  rw [ChipImage.cut, if_pos hmarker, hfield, hkind, slotOf_oscOf, ← deselect_setAtt]
  rfl

theorem ChipImage.cut_toneDivLoByte (c : ChipImage) (i : Slot) (lo : BitVec 4) :
    c.cut (toneDivLoByte (oscOf i) lo) = (c.setDiv i .unwritten).deselect := by
  obtain ⟨hmarker, hfield, hkind, -⟩ := fields_toneDivLoByte (oscOf i) lo
  rw [ChipImage.cut, if_pos hmarker, hfield, hkind, slotOf_oscOf, ← deselect_setDiv]
  rfl

/-- After its TONE_DIV_LO a cut TONE_DIV_HI leaves neither half of the divisor, and the selection (R214). -/
theorem ChipImage.cut_toneDivHiByte (c : ChipImage) (i : Slot) (lo : BitVec 4) (hi : BitVec 6) :
    (c.byte (toneDivLoByte (oscOf i) lo)).cut (toneDivHiByte hi) =
      (c.setDiv i .unwritten).select (oscOf i ++ 0#1) := by
  obtain ⟨hmarker, -⟩ := fields_toneDivHiByte hi
  have hslot : divisorSlot (oscOf i ++ 0#1) = some i := by fin_cases i <;> rfl
  simp [ChipImage.cut, hmarker, ChipImage.byte_toneDivLoByte, hslot, ChipImage.select_setDiv]

/-- The marker, register and kind fields of the two noise bytes (R77). -/
theorem fields_noiseBytes (shift : BitVec 2) (ntype : BitVec 1) (level : Att) :
    (field (noiseCtlByte shift ntype) 7 1 = 1 ∧ field (noiseCtlByte shift ntype) 5 2 = 3 ∧
      field (noiseCtlByte shift ntype) 4 1 = 0) ∧
    (field (noiseAttByte level) 7 1 = 1 ∧ field (noiseAttByte level) 5 2 = 3 ∧
      field (noiseAttByte level) 4 1 = 1) :=
  ⟨by revert shift ntype; decide, by revert level; decide⟩

theorem ChipImage.cut_noiseCtlByte (c : ChipImage) (shift : BitVec 2) (ntype : BitVec 1) :
    c.cut (noiseCtlByte shift ntype) = { c with nctl := none, sel := none } := by
  obtain ⟨⟨hmarker, hfield, hkind⟩, -⟩ := fields_noiseBytes shift ntype 0
  rw [ChipImage.cut, if_pos hmarker, hfield, hkind]
  rfl

theorem ChipImage.cut_noiseAttByte (c : ChipImage) (level : Att) :
    c.cut (noiseAttByte level) = { c with natt := none, sel := none } := by
  obtain ⟨-, hmarker, hfield, hkind⟩ := fields_noiseBytes 0 0 level
  rw [ChipImage.cut, if_pos hmarker, hfield, hkind]
  rfl

/-- The image takes the bytes whose pulses were completed, and then the cut of the last (R58, R214). -/
theorem chipImage_cut {s t : State} {bytes : List Byte} {b : Byte} (hnone : s.cutByte = none)
    (htrace : t.trace = s.trace ++ bytes) (hcut : t.cutByte = some b) :
    chipImage t = (bytes.foldl ChipImage.byte (chipImage s)).cut b := by
  simp [chipImage, hnone, hcut, htrace, imageOf]

/-- A direct write whose first pulse is cut at its rising edge, the event after its data drives and the
falling edge. -/
theorem directWrite_cut {s : State} {es : List PinEvent} (hes : onlyData es = true)
    (post : List PinEvent) {rest : List Bool} (hrunning : s.running = true) (hpins : s.pinsIdle)
    (hnone : s.cutByte = none)
    (hanswers : s.inputs.ioFail = List.replicate (es.length + 1) false ++ true :: rest) :
    ∃ t, directWrite (es ++ latchEvents s.params ++ post) s = .next t ∧
      chipImage t = (chipImage s).cut (pinsAfter 0 es) := by
  obtain ⟨hd, hwe⟩ := hpins
  obtain ⟨t, hdrive, htrace, hcut⟩ := drivePins_busWrite_pinFailure hes (s := s.accept .direct) hwe
    s.params (by omega) hanswers
  refine ⟨t, directWrite_aborted hrunning (by rw [drivePins_append, hdrive]; rfl), ?_⟩
  exact chipImage_cut (bytes := []) hnone (by simpa using htrace) (by simpa [hd] using hcut)

theorem directToneWrite_oscOf (i : Slot) (es : List PinEvent) (s : State) :
    directToneWrite (oscOf i) es s = directWrite es s := if_neg (oscOf_ne_three i)

/-- SET_TONE_ATT and MUTE_TONE cut at their rising edge. -/
theorem directToneWrite_toneAtt_cut {s : State} {rest : List Bool} (hrunning : s.running = true)
    (hpins : s.pinsIdle) (hnone : s.cutByte = none)
    (hanswers : s.inputs.ioFail = List.replicate 6 false ++ true :: rest) (i : Slot) (level : Att) :
    ∃ t, directToneWrite (oscOf i) (toneAttEvents s.params (oscOf i) level) s = .next t ∧
      chipImage t = ((chipImage s).setAtt i none).deselect := by
  rw [directToneWrite_oscOf, ← ChipImage.cut_toneAttByte _ i level, ← pinsAfter_toneAtt]
  exact directWrite_cut (es := toneRegisterEvents (oscOf i) ++ attenuationEvents level) rfl []
    hrunning hpins hnone hanswers

/-- Settles O23: the cut byte is the TONE_ATT byte (`directToneWrite_toneAtt_cut`). -/
theorem cutPulseLeavesNoValue : Obligations.CutPulseLeavesNoValue := by
  intro s i level rest hrunning hpins hnone hanswers
  obtain ⟨t, hexec, himage⟩ := directToneWrite_toneAtt_cut hrunning hpins hnone hanswers i level
  refine ⟨t, hexec, ?_⟩
  rw [himage]
  exact ⟨by simp [ChipImage.att_setAtt], fun j hj => by simp [ChipImage.att_setAtt, hj], by simp,
    by simp, by simp⟩

/-- SET_TONE cut at the rising edge of its first byte. -/
theorem directWrite_divisor_cut_low {s : State} {rest : List Bool} (hrunning : s.running = true)
    (hpins : s.pinsIdle) (hnone : s.cutByte = none)
    (hanswers : s.inputs.ioFail = List.replicate 6 false ++ true :: rest) (i : Slot) (n : Div) :
    ∃ t, directWrite (divisorEvents s.params (oscOf i) n) s = .next t ∧
      chipImage t = ((chipImage s).setDiv i .unwritten).deselect := by
  rw [← ChipImage.cut_toneDivLoByte _ i (divLo n), ← pinsAfter_toneDivLo]
  exact directWrite_cut (es := toneRegisterEvents (oscOf i) ++ frequencyLowEvents (divLo n)) rfl
    (toneDivHiEvents s.params (divHi n)) hrunning hpins hnone hanswers

/-- SET_TONE cut at the rising edge of its second byte: the first byte is written. -/
theorem directWrite_divisor_cut_high {s : State} {rest : List Bool} (hrunning : s.running = true)
    (hpins : s.pinsIdle) (hnone : s.cutByte = none)
    (hanswers : s.inputs.ioFail = List.replicate 11 false ++ true :: rest) (i : Slot) (n : Div) :
    ∃ t, directWrite (divisorEvents s.params (oscOf i) n) s = .next t ∧
      chipImage t = ((chipImage s).setDiv i .unwritten).select (oscOf i ++ 0#1) := by
  obtain ⟨hd, -⟩ := hpins
  obtain ⟨hlow, hleft⟩ := drivePins_replicate_false (s := s.accept .direct)
    (es := toneDivLoEvents s.params (oscOf i) (divLo n))
    (rest := List.replicate 3 false ++ true :: rest) hanswers
  rw [applyEvents_toneDivLo (s := s.accept .direct) hd] at hlow hleft
  obtain ⟨t, hdrive, htrace, hcut⟩ := drivePins_busWrite_pinFailure
    (es := frequencyHighEvents (divHi n)) rfl rfl s.params (show 3 < 5 by decide) hleft
  refine ⟨t, directWrite_aborted hrunning ?_, ?_⟩
  · rw [divisorEvents, drivePins_append, hlow]
    exact hdrive
  · rw [← ChipImage.cut_toneDivHiByte _ i (divLo n) (divHi n), ← pinsAfter_toneDivHi]
    exact chipImage_cut hnone htrace hcut

/-- Settles O59: each write by the byte whose pulse is cut; a divisor's second byte finds the first one
written (`directWrite_divisor_cut_high`). -/
theorem cutPulseInTheOtherWrites : Obligations.CutPulseInTheOtherWrites := by
  intro s i f ntype shift level rest hrunning hpins hnone cutAt image
  have hsetTone :
      exec (.setTone (oscOf i) f) s =
        directWrite (divisorEvents s.params (oscOf i) (quantize s.params.masterClockHz f)) s :=
    directToneWrite_oscOf i _ s
  refine ⟨fun hcutAt => ⟨directToneWrite_toneAtt_cut hrunning hpins hnone hcutAt i silence, ?_⟩,
    fun hcutAt => ?_, fun hcutAt => ?_⟩
  · rw [hsetTone]
    exact directWrite_divisor_cut_low hrunning hpins hnone hcutAt i _
  · rw [hsetTone]
    exact directWrite_divisor_cut_high hrunning hpins hnone hcutAt i _
  · have hatt (a : Att) : ∃ t, directWrite (noiseAttEvents s.params a) s = .next t ∧
        chipImage t = { image with natt := none, sel := none } := by
      rw [← ChipImage.cut_noiseAttByte image a, ← pinsAfter_noiseAtt]
      exact directWrite_cut (es := noiseRegisterEvents ++ attenuationEvents a) rfl [] hrunning hpins
        hnone hcutAt
    refine ⟨?_, hatt level, hatt silence⟩
    rw [← ChipImage.cut_noiseCtlByte image shift ntype, ← pinsAfter_noiseCtl]
    exact directWrite_cut (es := noiseRegisterEvents ++ noiseControlEvents ntype shift) rfl [] hrunning
      hpins hnone hcutAt

end Sys2Proof.Machine
end

section
/-! PROOFS. Reset and hazards (70_reset_and_hazards.md): the discipline of the write pulse (R243 to R245). -/

namespace Sys2Proof.Machine

open Sys2Proof

/-! ## Reading a pin log -/

/-- A pin log is read piece by piece, the pulse carried over. -/
theorem scanPulses_append (t : Rat) (p : Pulse) (es fs : List PinEvent) :
    scanPulses t p (es ++ fs) = (scanPulses t p es).bind fun q => scanPulses t q fs := by
  induction es generalizing p with
  | nil => rfl
  | cons e es ih => cases h : p.next t e <;> simp [scanPulses, h, ih]

/-- While `WE_n` is high the data pins may move (R243). -/
theorem scanPulses_onlyData {es : List PinEvent} (hes : onlyData es = true) (t : Rat) :
    scanPulses t .high es = some .high := by
  induction es with
  | nil => rfl
  | cons e es ih =>
    cases e with
    | data hi lo v => exact ih (by simpa [onlyData] using hes)
    | weN level => simp [onlyData] at hes
    | wait u => simp [onlyData] at hes

/-- A BusWrite is one well-made pulse: the data first, then `latch()` with its one wait (R117, R245). -/
theorem scanPulses_busWrite {es : List PinEvent} (hes : onlyData es = true) (p : Config.Params) :
    scanPulses (writeTime p) .high (es ++ latchEvents p) = some .high := by
  rw [scanPulses_append, scanPulses_onlyData hes]
  simp [latchEvents, scanPulses, Pulse.next]

/-- Every list of pin events an operation drives makes whole pulses. -/
theorem Transaction.scanPulses_high {p : Config.Params} {es : List PinEvent} (h : Transaction p es) :
    scanPulses (writeTime p) .high es = some .high := by
  cases h with
  | divisor i n =>
    have hlow : scanPulses (writeTime p) .high (toneDivLoEvents p (oscOf i) (divLo n)) = some .high :=
      scanPulses_busWrite rfl p
    rw [divisorEvents, scanPulses_append, hlow]
    exact scanPulses_busWrite rfl p
  | toneAtt i level => exact scanPulses_busWrite rfl p
  | noiseCtl ntype shift => exact scanPulses_busWrite rfl p
  | noiseAtt level => exact scanPulses_busWrite rfl p
  | idle => rfl

/-! ## A log that a BusIOError ends (R214) -/

/-- Just after a falling edge only the wait may come, about which the driver is not asked (R212). -/
theorem Pulse.ne_fallen_of_next_asks {t : Rat} {p q : Pulse} {e : PinEvent} (hasks : e.asks = true)
    (h : p.next t e = some q) : p ≠ .fallen := by
  rintro rfl
  cases e with
  | data hi lo v => cases h
  | weN level => cases h
  | wait u => cases hasks

/-- The clean-up drives close a pulse that has been held for its time, and disturb none where `WE_n` is
high (R119). -/
theorem scanPulses_cleanUp {p : Pulse} (hp : p ≠ .fallen) (t : Rat) :
    scanPulses t p [.weN true, .data 7 0 0] = some .high := by
  cases p with
  | high => rfl
  | fallen => exact absurd rfl hp
  | held => rfl

/-- Only an event the driver is asked about can fail, so a list cut there and cleaned up still makes whole
pulses. -/
theorem scanPulses_cut {t : Rat} {pre post : List PinEvent} {e : PinEvent} (hasks : e.asks = true)
    {p q : Pulse} (h : scanPulses t p (pre ++ e :: post) = some q) :
    scanPulses t p (pre ++ [.weN true, .data 7 0 0]) = some .high := by
  rw [scanPulses_append] at h ⊢
  obtain ⟨r, hpre, hrest⟩ := Option.bind_eq_some_iff.1 h
  obtain ⟨r', hnext, -⟩ := Option.bind_eq_some_iff.1 hrest
  rw [hpre]
  exact scanPulses_cleanUp (Pulse.ne_fallen_of_next_asks hasks hnext) t

/-! ## The invariant -/

/-- Whole transactions append whole pulses, and one that a BusIOError cuts is closed by the clean-up
drives after its wait (R214). -/
theorem busKept_pulsesOk : BusKept State.pulsesOk where
  same := by
    rintro s t ⟨hparams, -, -, -, -, -, hlog, -⟩ hs
    rwa [State.pulsesOk, hparams, hlog]
  drive := by
    intro s es _ htrans hs
    have happend (fs : List PinEvent) (hfs : scanPulses (writeTime s.params) .high fs = some .high) :
        scanPulses (writeTime s.params) .high (s.pinLog ++ fs) = some .high := by
      rw [scanPulses_append, hs]; exact hfs
    obtain hgo | ⟨pre, e, post, rfl, hfails, habort⟩ := drivePins_cases es s
    · rw [hgo]
      simpa [State.pulsesOk] using happend es htrans.scanPulses_high
    · obtain ⟨hasks, -⟩ := Bool.and_eq_true_iff.1 hfails
      rw [habort]
      simpa [State.pulsesOk] using happend _ (scanPulses_cut hasks htrans.scanPulses_high)
  config := fun _ hs => hs

/-- The pin log and the constants are no inputs. -/
theorem sameButInputs.pulsesOk {s t : State} (h : sameButInputs s t) (hs : s.pulsesOk) : t.pulsesOk := by
  rw [h]; exact hs

/-- Settles O50: whole transactions and cut ones keep the discipline (`busKept_pulsesOk`), so every step
does; a reset starts the pin log anew. -/
theorem everyStepKeepsPulseDiscipline : Obligations.EveryStepKeepsPulseDiscipline := fun _ _ =>
  step_keeps busKept_pulsesOk (fun _ => rfl) fun _ _ h => h.pulsesOk

end Sys2Proof.Machine
end
